-- ==== Sys2Proof/Word.lean ====
section
/-! DEFINITION. The word types of the core (00_scope.md R9, R11; 30_encoding.md R43). All values are unsigned. -/

namespace Sys2Proof

/-- `u4` of R11: a group, a cable number, a CIN, a channel, a sysex status. -/
abbrev Nibble := BitVec 4

/-- `u8` of R11: a raw byte. -/
abbrev Byte := BitVec 8

/-- `u32` of R11: a UMP word, a USB-MIDI packet, the operand `ARG` of a command, a returned value. -/
abbrev Word := BitVec 32

/-- A command word: `OP` in bits 39..32 and `ARG` in bits 31..0 (R43). -/
abbrev CommandWord := BitVec 40

end Sys2Proof
end

