-- ==== Sys2Proof/Syntax.lean ====
section
/-! DEFINITION. The instructions: one constructor per row of spec/opcode_table.json. -/

namespace Sys2Proof

/-- The three formats of the opcode table: the 40-bit command word (30_encoding.md R43), the raw MIDI 1.0 byte that
`bs.push` carries (R53), and the USB-MIDI packet that `usb.recv` carries (R52). -/
inductive Encoded where
  | cmd40 (w : CommandWord)
  | midi1Byte (b : Byte)
  | usbMidiPacket (p : Word)
deriving DecidableEq, Repr

/-- The instruction set. The first nine constructors are the commands of R44, each with its whole operand `ARG`:
reserved operand bits are checked by `WellFormed`, by the decoder and by the command itself (R45).
The other forty are the operand classes of the opcode table (assumption log 1): a `midi1…` constructor is the command
`bs.push` carrying a byte of that class (R53), a `usbCin…` constructor is the command `usb.recv` carrying a packet with
that CIN (R52, R64), its cable number and its three payload bytes. -/
inductive Instr where
  -- commands (R44)
  | le7Dec2 (arg : Word)
  | le7Dec4 (arg : Word)
  | usbRecv (arg : Word)
  | usbAvail (arg : Word)
  | usbRead (arg : Word)
  | bsPush (arg : Word)
  | bsPop (arg : Word)
  | bsEmpty (arg : Word)
  | bsReset (arg : Word)
  -- MIDI 1.0 byte classes (R53)
  | midi1Data (data : BitVec 7)
  | midi1NoteOff (channel : Nibble)
  | midi1NoteOn (channel : Nibble)
  | midi1PolyPressure (channel : Nibble)
  | midi1ControlChange (channel : Nibble)
  | midi1ProgramChange (channel : Nibble)
  | midi1ChannelPressure (channel : Nibble)
  | midi1PitchBend (channel : Nibble)
  | midi1SysexStart
  | midi1SystemCommonF1
  | midi1SystemCommonF2
  | midi1SystemCommonF3
  | midi1ReservedF4
  | midi1ReservedF5
  | midi1TuneRequest
  | midi1SysexEnd
  | midi1RealtimeF8
  | midi1RealtimeF9
  | midi1RealtimeFA
  | midi1RealtimeFB
  | midi1RealtimeFC
  | midi1RealtimeFD
  | midi1RealtimeFE
  | midi1RealtimeFF
  -- USB-MIDI packets by CIN (R52, R64)
  | usbCin0 (cn : Nibble) (p0 p1 p2 : Byte)
  | usbCin1 (cn : Nibble) (p0 p1 p2 : Byte)
  | usbCin2 (cn : Nibble) (p0 p1 p2 : Byte)
  | usbCin3 (cn : Nibble) (p0 p1 p2 : Byte)
  | usbCin4 (cn : Nibble) (p0 p1 p2 : Byte)
  | usbCin5 (cn : Nibble) (p0 p1 p2 : Byte)
  | usbCin6 (cn : Nibble) (p0 p1 p2 : Byte)
  | usbCin7 (cn : Nibble) (p0 p1 p2 : Byte)
  | usbCin8 (cn : Nibble) (p0 p1 p2 : Byte)
  | usbCin9 (cn : Nibble) (p0 p1 p2 : Byte)
  | usbCinA (cn : Nibble) (p0 p1 p2 : Byte)
  | usbCinB (cn : Nibble) (p0 p1 p2 : Byte)
  | usbCinC (cn : Nibble) (p0 p1 p2 : Byte)
  | usbCinD (cn : Nibble) (p0 p1 p2 : Byte)
  | usbCinE (cn : Nibble) (p0 p1 p2 : Byte)
  | usbCinF (cn : Nibble) (p0 p1 p2 : Byte)
deriving DecidableEq, Repr

end Sys2Proof
end

