-- ==== Sys2Proof/WellFormed.lean ====
section
/-! DEFINITION. Well-formed instructions: the reserved operand bits are 0 (30_encoding.md R44, R45). -/

namespace Sys2Proof

/-- Whether the operand bits that the instruction reserves are all 0 (the column "reserved bits" of R44).
An operand class of `bs.push` or `usb.recv` has no reserved bit of its own. -/
def Instr.wellFormed : Instr → Bool
  | .le7Dec2 arg => arg.extractLsb' 16 16 == 0
  | .le7Dec4 _ => true
  | .usbRecv _ => true
  | .usbAvail arg => arg == 0
  | .usbRead arg => arg == 0
  | .bsPush arg => arg.extractLsb' 8 24 == 0
  | .bsPop arg => arg == 0
  | .bsEmpty arg => arg == 0
  | .bsReset arg => arg == 0
  | .midi1Data _ => true
  | .midi1NoteOff _ => true
  | .midi1NoteOn _ => true
  | .midi1PolyPressure _ => true
  | .midi1ControlChange _ => true
  | .midi1ProgramChange _ => true
  | .midi1ChannelPressure _ => true
  | .midi1PitchBend _ => true
  | .midi1SysexStart => true
  | .midi1SystemCommonF1 => true
  | .midi1SystemCommonF2 => true
  | .midi1SystemCommonF3 => true
  | .midi1ReservedF4 => true
  | .midi1ReservedF5 => true
  | .midi1TuneRequest => true
  | .midi1SysexEnd => true
  | .midi1RealtimeF8 => true
  | .midi1RealtimeF9 => true
  | .midi1RealtimeFA => true
  | .midi1RealtimeFB => true
  | .midi1RealtimeFC => true
  | .midi1RealtimeFD => true
  | .midi1RealtimeFE => true
  | .midi1RealtimeFF => true
  | .usbCin0 _ _ _ _ => true
  | .usbCin1 _ _ _ _ => true
  | .usbCin2 _ _ _ _ => true
  | .usbCin3 _ _ _ _ => true
  | .usbCin4 _ _ _ _ => true
  | .usbCin5 _ _ _ _ => true
  | .usbCin6 _ _ _ _ => true
  | .usbCin7 _ _ _ _ => true
  | .usbCin8 _ _ _ _ => true
  | .usbCin9 _ _ _ _ => true
  | .usbCinA _ _ _ _ => true
  | .usbCinB _ _ _ _ => true
  | .usbCinC _ _ _ _ => true
  | .usbCinD _ _ _ _ => true
  | .usbCinE _ _ _ _ => true
  | .usbCinF _ _ _ _ => true

/-- The instruction has an encoding. -/
abbrev Instr.WellFormed (i : Instr) : Prop := i.wellFormed = true

end Sys2Proof
end

