-- ==== Sys2Proof/Decode.lean ====
section
/-! DEFINITION. The decoder of the three formats of the opcode table, and the encoder. -/

namespace Sys2Proof

/-- Why a command word has no instruction (30_encoding.md R45). The core answers either with `ILLEGAL_COMMAND`. -/
inductive DecodeError where
  /-- `OP` is none of the nine values of R44. -/
  | unknownOp (op : Byte)
  /-- A reserved bit of `ARG` is 1 for this `OP`. -/
  | reservedBits (op : Byte) (arg : Word)
deriving DecidableEq, Repr

/-- `OP`, bits 39..32 of a command word (R43). -/
def opField (w : CommandWord) : Byte := w.extractLsb' 32 8

/-- `ARG`, bits 31..0 of a command word (R43). -/
def argField (w : CommandWord) : Word := w.extractLsb' 0 32

/-- The opcode map (R44), reserved bits not yet checked. -/
def opcodeMap (op : Byte) (arg : Word) : Option Instr :=
  match op.toNat with
  | 0x01 => some (.le7Dec2 arg)
  | 0x02 => some (.le7Dec4 arg)
  | 0x10 => some (.usbRecv arg)
  | 0x11 => some (.usbAvail arg)
  | 0x12 => some (.usbRead arg)
  | 0x20 => some (.bsPush arg)
  | 0x21 => some (.bsPop arg)
  | 0x22 => some (.bsEmpty arg)
  | 0x23 => some (.bsReset arg)
  | _ => none

/-- Decode a command word: illegal when `OP` is undefined or a reserved bit is set (R45). -/
def decodeCommand (w : CommandWord) : Except DecodeError Instr :=
  match opcodeMap (opField w) (argField w) with
  | none => .error (.unknownOp (opField w))
  | some i => if i.wellFormed then .ok i else .error (.reservedBits (opField w) (argField w))

/-- Classify a byte 0xF0..0xFF by its low nibble (R53). -/
def decodeSystemByte (low : Nibble) : Instr :=
  match low.toNat with
  | 0x0 => .midi1SysexStart
  | 0x1 => .midi1SystemCommonF1
  | 0x2 => .midi1SystemCommonF2
  | 0x3 => .midi1SystemCommonF3
  | 0x4 => .midi1ReservedF4
  | 0x5 => .midi1ReservedF5
  | 0x6 => .midi1TuneRequest
  | 0x7 => .midi1SysexEnd
  | 0x8 => .midi1RealtimeF8
  | 0x9 => .midi1RealtimeF9
  | 0xA => .midi1RealtimeFA
  | 0xB => .midi1RealtimeFB
  | 0xC => .midi1RealtimeFC
  | 0xD => .midi1RealtimeFD
  | 0xE => .midi1RealtimeFE
  | _ => .midi1RealtimeFF

/-- Sort a raw MIDI 1.0 byte into its class, using the byte alone (R53). Every byte has exactly one class. -/
def decodeByte (b : Byte) : Instr :=
  match (b.extractLsb' 4 4).toNat with
  | 0x8 => .midi1NoteOff (b.extractLsb' 0 4)
  | 0x9 => .midi1NoteOn (b.extractLsb' 0 4)
  | 0xA => .midi1PolyPressure (b.extractLsb' 0 4)
  | 0xB => .midi1ControlChange (b.extractLsb' 0 4)
  | 0xC => .midi1ProgramChange (b.extractLsb' 0 4)
  | 0xD => .midi1ChannelPressure (b.extractLsb' 0 4)
  | 0xE => .midi1PitchBend (b.extractLsb' 0 4)
  | 0xF => decodeSystemByte (b.extractLsb' 0 4)
  | _ => .midi1Data (b.extractLsb' 0 7)

/-- The constructor of a packet's CIN (R52, R64). -/
def packetInstr (cin cn : Nibble) (p0 p1 p2 : Byte) : Instr :=
  match cin.toNat with
  | 0x0 => .usbCin0 cn p0 p1 p2
  | 0x1 => .usbCin1 cn p0 p1 p2
  | 0x2 => .usbCin2 cn p0 p1 p2
  | 0x3 => .usbCin3 cn p0 p1 p2
  | 0x4 => .usbCin4 cn p0 p1 p2
  | 0x5 => .usbCin5 cn p0 p1 p2
  | 0x6 => .usbCin6 cn p0 p1 p2
  | 0x7 => .usbCin7 cn p0 p1 p2
  | 0x8 => .usbCin8 cn p0 p1 p2
  | 0x9 => .usbCin9 cn p0 p1 p2
  | 0xA => .usbCinA cn p0 p1 p2
  | 0xB => .usbCinB cn p0 p1 p2
  | 0xC => .usbCinC cn p0 p1 p2
  | 0xD => .usbCinD cn p0 p1 p2
  | 0xE => .usbCinE cn p0 p1 p2
  | _ => .usbCinF cn p0 p1 p2

/-- Split a USB-MIDI packet into its fields (R52). -/
def decodePacket (p : Word) : Instr :=
  packetInstr (p.extractLsb' 24 4) (p.extractLsb' 28 4) (p.extractLsb' 16 8) (p.extractLsb' 8 8) (p.extractLsb' 0 8)

/-- The decoder: total on every word of every format, refusing by name. -/
def decode : Encoded → Except DecodeError Instr
  | .cmd40 w => decodeCommand w
  | .midi1Byte b => .ok (decodeByte b)
  | .usbMidiPacket p => .ok (decodePacket p)

/-- A command word from its fields (R43). -/
def commandWord (op : Byte) (arg : Word) : CommandWord := op ++ arg

/-- The operand of `bs.push` for a byte: bits 31..8 are 0 (R48, R49). -/
def pushOperand (b : Byte) : Word := 0#24 ++ b

/-- The byte of a status with this high nibble (R53). -/
def statusByteOf (high channel : Nibble) : Byte := high ++ channel

/-- The byte of a data byte's seven bits: bit 7 is 0 (R53). -/
def dataByteOf (data : BitVec 7) : Byte := 0#1 ++ data

/-- A USB-MIDI packet from its fields (R52). -/
def packetOf (cin cn : Nibble) (p0 p1 p2 : Byte) : Word := cn ++ cin ++ p0 ++ p1 ++ p2

/-- The encoder: the word of a well-formed instruction, from the tables of R44, R52 and R53. -/
def encode : Instr → Encoded
  | .le7Dec2 arg => .cmd40 (commandWord 0x01 arg)
  | .le7Dec4 arg => .cmd40 (commandWord 0x02 arg)
  | .usbRecv arg => .cmd40 (commandWord 0x10 arg)
  | .usbAvail arg => .cmd40 (commandWord 0x11 arg)
  | .usbRead arg => .cmd40 (commandWord 0x12 arg)
  | .bsPush arg => .cmd40 (commandWord 0x20 arg)
  | .bsPop arg => .cmd40 (commandWord 0x21 arg)
  | .bsEmpty arg => .cmd40 (commandWord 0x22 arg)
  | .bsReset arg => .cmd40 (commandWord 0x23 arg)
  | .midi1Data data => .midi1Byte (dataByteOf data)
  | .midi1NoteOff channel => .midi1Byte (statusByteOf 0x8 channel)
  | .midi1NoteOn channel => .midi1Byte (statusByteOf 0x9 channel)
  | .midi1PolyPressure channel => .midi1Byte (statusByteOf 0xA channel)
  | .midi1ControlChange channel => .midi1Byte (statusByteOf 0xB channel)
  | .midi1ProgramChange channel => .midi1Byte (statusByteOf 0xC channel)
  | .midi1ChannelPressure channel => .midi1Byte (statusByteOf 0xD channel)
  | .midi1PitchBend channel => .midi1Byte (statusByteOf 0xE channel)
  | .midi1SysexStart => .midi1Byte 0xF0
  | .midi1SystemCommonF1 => .midi1Byte 0xF1
  | .midi1SystemCommonF2 => .midi1Byte 0xF2
  | .midi1SystemCommonF3 => .midi1Byte 0xF3
  | .midi1ReservedF4 => .midi1Byte 0xF4
  | .midi1ReservedF5 => .midi1Byte 0xF5
  | .midi1TuneRequest => .midi1Byte 0xF6
  | .midi1SysexEnd => .midi1Byte 0xF7
  | .midi1RealtimeF8 => .midi1Byte 0xF8
  | .midi1RealtimeF9 => .midi1Byte 0xF9
  | .midi1RealtimeFA => .midi1Byte 0xFA
  | .midi1RealtimeFB => .midi1Byte 0xFB
  | .midi1RealtimeFC => .midi1Byte 0xFC
  | .midi1RealtimeFD => .midi1Byte 0xFD
  | .midi1RealtimeFE => .midi1Byte 0xFE
  | .midi1RealtimeFF => .midi1Byte 0xFF
  | .usbCin0 cn p0 p1 p2 => .usbMidiPacket (packetOf 0x0 cn p0 p1 p2)
  | .usbCin1 cn p0 p1 p2 => .usbMidiPacket (packetOf 0x1 cn p0 p1 p2)
  | .usbCin2 cn p0 p1 p2 => .usbMidiPacket (packetOf 0x2 cn p0 p1 p2)
  | .usbCin3 cn p0 p1 p2 => .usbMidiPacket (packetOf 0x3 cn p0 p1 p2)
  | .usbCin4 cn p0 p1 p2 => .usbMidiPacket (packetOf 0x4 cn p0 p1 p2)
  | .usbCin5 cn p0 p1 p2 => .usbMidiPacket (packetOf 0x5 cn p0 p1 p2)
  | .usbCin6 cn p0 p1 p2 => .usbMidiPacket (packetOf 0x6 cn p0 p1 p2)
  | .usbCin7 cn p0 p1 p2 => .usbMidiPacket (packetOf 0x7 cn p0 p1 p2)
  | .usbCin8 cn p0 p1 p2 => .usbMidiPacket (packetOf 0x8 cn p0 p1 p2)
  | .usbCin9 cn p0 p1 p2 => .usbMidiPacket (packetOf 0x9 cn p0 p1 p2)
  | .usbCinA cn p0 p1 p2 => .usbMidiPacket (packetOf 0xA cn p0 p1 p2)
  | .usbCinB cn p0 p1 p2 => .usbMidiPacket (packetOf 0xB cn p0 p1 p2)
  | .usbCinC cn p0 p1 p2 => .usbMidiPacket (packetOf 0xC cn p0 p1 p2)
  | .usbCinD cn p0 p1 p2 => .usbMidiPacket (packetOf 0xD cn p0 p1 p2)
  | .usbCinE cn p0 p1 p2 => .usbMidiPacket (packetOf 0xE cn p0 p1 p2)
  | .usbCinF cn p0 p1 p2 => .usbMidiPacket (packetOf 0xF cn p0 p1 p2)

/-- The command word on the port that carries an encoded instruction: a raw byte is the operand of `bs.push` (OP 0x20,
R48), a packet that of `usb.recv` (OP 0x10, R47). -/
def Encoded.toCommand : Encoded → CommandWord
  | .cmd40 w => w
  | .midi1Byte b => commandWord 0x20 (pushOperand b)
  | .usbMidiPacket p => commandWord 0x10 p

/-- The encoded instruction of an opcode-table row given by its width and its bits: 8 bits are a raw MIDI 1.0 byte,
32 a USB-MIDI packet, 40 a command word. -/
def tableEncoded (nbits w : Nat) : Encoded :=
  if nbits ≤ 8 then .midi1Byte (BitVec.ofNat 8 w)
  else if nbits ≤ 32 then .usbMidiPacket (BitVec.ofNat 32 w)
  else .cmd40 (BitVec.ofNat 40 w)

/-- The instruction the decoder reads from an opcode-table word of `nbits` bits. -/
def decodeTableWord (nbits w : Nat) : Option Instr :=
  match decode (tableEncoded nbits w) with
  | .ok i => some i
  | .error _ => none

end Sys2Proof
end

