-- ==== Sys2Proof/Config.lean ====
section
/-! DEFINITION. What is fixed when the core is built (00_scope.md R6): the capacities, and the type of the two
named parameters. The parameters' VALUES stand in Machine/Operands.lean (`Machine.params`). The core has no free
value: every value its rules use is stated by them. -/

namespace Sys2Proof.Config

/-- `UX_CAP`: bytes the extractor's output FIFO holds (R6). -/
abbrev uxCap : Nat := 4

/-- `TR_CAP`: words the translator's output FIFO holds (R6). -/
abbrev trCap : Nat := 4

/-- Bytes the sysex7 accumulator holds before it flushes (R6, 10_state.md R20). -/
abbrev sxCap : Nat := 6

/-- The named parameters of R6 whose value a reading of the source could change (92_eei_decisions.md D10, D12). -/
structure Params where
  /-- `MT_SYSTEM`: message-type nibble of a one-word system message. -/
  mtSystem : Nibble
  /-- `SYSEX_SINGLE_STATUS`: sysex status of a packet that both starts and ends a message. -/
  sysexSingleStatus : Nibble
deriving DecidableEq, Repr

end Sys2Proof.Config
end

