-- ==== Sys2Proof/Machine/State.lean ====
section
/-! DEFINITION. The state of the core as plain data (10_state.md), the reasons a step can stop, and reset. -/

namespace Sys2Proof.Machine

/-- A bounded circular buffer of capacity `n` (20_memory.md R25): slots, the index of the oldest element, and how many
elements are held. The bounds of R25 are in the types. -/
structure Fifo (α : Type) (n : Nat) where
  buf : Vector α n
  head : Fin n
  size : Fin (n + 1)
deriving DecidableEq, Repr

/-- `TR_SXST`, the sysex7 accumulator state (10_state.md R20): codes 0, 1, 2; code 3 is unreachable (I5). -/
inductive SxState where
  | idle
  | started
  | continuing
deriving DecidableEq, Repr

/-- The response of a command (00_scope.md R8). -/
inductive Response where
  /-- `NONE`: the command returns no value. -/
  | none
  /-- `VAL(v)`. -/
  | val (v : Word)
  /-- `FAULTED(code)`. -/
  | faulted (code : BitVec 3)
deriving DecidableEq, Repr

/-- What the host does to the core (00_scope.md R7): it writes a command word to the command port, or it uses the reset
input with values on the configuration inputs. `group = none` is an undriven `GROUP` input (70_reset_and_hazards.md
R108); `CABLE` has no default, so it is always driven. -/
inductive HostEvent where
  | command (w : CommandWord)
  | reset (group : Option Nibble) (cable : Nibble)
deriving DecidableEq, Repr

/-- The contract violations and their codes (60_exceptions.md R93). -/
inductive FaultCode where
  | fifoOverflow
  | fifoUnderflow
  | illegalCommand
  | configRange
deriving DecidableEq, Repr

/-- The state. The registers carry the names of 10_state.md. `resp` and `port` are the model's own fields for the ports
of 00_scope.md R7 (assumption log 2 and 3). -/
structure State where
  /-- `CFG_GROUP` (R15). -/
  cfgGroup : Nibble
  /-- `CFG_CABLE` (R15). -/
  cfgCable : Nibble
  /-- `FLT_CODE` (R17). -/
  fltCode : BitVec 3
  /-- `UX_BUF`, `UX_HEAD`, `UX_SIZE` (R19). -/
  uxFifo : Fifo Byte Config.uxCap
  /-- `TR_RS`: the running status, or `NONE` (R20). -/
  trRs : Option Byte
  /-- `TR_D1`: the first collected data byte (R20). -/
  trD1 : Byte
  /-- `TR_ND`: how many data bytes are collected (R20). -/
  trNd : Fin 2
  /-- `TR_SXST` (R20). -/
  trSxst : SxState
  /-- `TR_SXCNT`: 0..5 between commands (R20, 90_conflicts.md C4). -/
  trSxcnt : Fin 6
  /-- `TR_SXBUF` (R20). -/
  trSxbuf : Vector Byte Config.sxCap
  /-- `TR_OBUF`, `TR_OHEAD`, `TR_OSIZE` (R20). -/
  trFifo : Fifo Word Config.trCap
  /-- The response of the last command since reset, if there was one (00_scope.md R8). -/
  resp : Option Response
  /-- What the host has still to do, oldest first (00_scope.md R7). -/
  port : List HostEvent
deriving DecidableEq, Repr

/-- Why the machine stops with a fault. No step does: the core's own faults are responses, held in `FLT_CODE`
(60_exceptions.md R95, R96), and their entry is a next state. -/
inductive Fault where
  /-- `CONFIG_RANGE` (10_state.md R16): raised only by `construct`, for a group or cable of 16 or more. Safe: there is
  no state, as R16 says. -/
  | configRange
deriving DecidableEq, Repr

/-- Why an instruction has no meaning. -/
inductive Refusal where
  /-- Raised by `exec` for an instruction without a meaning yet; no arm raises it in this model. Safe. -/
  | notModelled (mnemonic : String)
deriving DecidableEq, Repr

/-- The state after global reset with these pin values (70_reset_and_hazards.md R106). The storage slots are unspecified
there; they are 0 here (10_state.md R24; assumption log 5). -/
def State.resetWith (group : Option Nibble) (cable : Nibble) : State where
  cfgGroup := group.getD 0
  cfgCable := cable
  fltCode := 0
  uxFifo := { buf := Vector.replicate _ 0, head := 0, size := 0 }
  trRs := .none
  trD1 := 0
  trNd := 0
  trSxst := .idle
  trSxcnt := 0
  trSxbuf := Vector.replicate _ 0
  trFifo := { buf := Vector.replicate _ 0, head := 0, size := 0 }
  resp := .none
  port := []

/-- The machine right after reset: `GROUP` undriven, hence 0 (R108); `CABLE` driven with 0 (assumption log 4); nothing
on the command port. -/
def State.reset : State := State.resetWith .none 0

end Sys2Proof.Machine
end

