-- ==== Sys2Proof/Machine/Ops.lean ====
section
/-! DEFINITION. The named operations: responses, fault entry and the faulted state (60_exceptions.md), the FIFO
component (20_memory.md), and global reset (70_reset_and_hazards.md). -/

namespace Sys2Proof.Machine

/-! ### Faults and responses -/

/-- The 3-bit code of a fault (R93). -/
def FaultCode.code : FaultCode → BitVec 3
  | .fifoOverflow => 1
  | .fifoUnderflow => 2
  | .illegalCommand => 3
  | .configRange => 4

/-- End a command with a response (00_scope.md R8). -/
def State.reply (s : State) (r : Response) : State := { s with resp := some r }

/-- Fault entry (R95): from the state before the command, only `FLT_CODE` is written, and the response is
`FAULTED(code)`. -/
def State.raiseFault (s : State) (c : FaultCode) : State :=
  { s with fltCode := c.code, resp := some (.faulted c.code) }

/-- A command in the faulted state (R96): ignored, with the response `FAULTED(FLT_CODE)`. -/
def State.faultedReply (s : State) : State := { s with resp := some (.faulted s.fltCode) }

/-- Run a command (R97): in the faulted state it is ignored; otherwise `body` gives the state it commits, or the
contract violation it raises. There is no return from the faulted state but global reset (R98). -/
def runCommand (s : State) (body : Except FaultCode State) : Host.Outcome State Fault Refusal :=
  if s.fltCode ≠ 0 then .next s.faultedReply
  else match body with
    | .ok t => .next t
    | .error c => .next (s.raiseFault c)

/-- A command word that is no instruction (30_encoding.md R45). -/
def rejectIllegal (s : State) : Host.Outcome State Fault Refusal := runCommand s (.error .illegalCommand)

/-! ### The bounded circular buffer -/

/-- The slot `i` places after the oldest element, modulo the capacity (R26). -/
def Fifo.slot {α : Type} {n : Nat} (f : Fifo α n) (i : Nat) : Fin n :=
  ⟨(f.head.val + i) % n, Nat.mod_lt _ f.head.pos⟩

/-- `FifoEmpty` (R27). -/
def Fifo.isEmpty {α : Type} {n : Nat} (f : Fifo α n) : Bool := f.size.val == 0

/-- `FifoSize` (R28). -/
def Fifo.count {α : Type} {n : Nat} (f : Fifo α n) : Nat := f.size.val

/-- `FifoPush` (R29). -/
def Fifo.push {α : Type} {n : Nat} (f : Fifo α n) (v : α) : Except FaultCode (Fifo α n) :=
  if h : f.size.val < n then
    .ok { f with buf := f.buf.set (f.slot f.size.val).val v, size := ⟨f.size.val + 1, by omega⟩ }
  else .error .fifoOverflow

/-- `FifoPop` (R30): the slot read keeps its value. -/
def Fifo.pop {α : Type} {n : Nat} (f : Fifo α n) : Except FaultCode (α × Fifo α n) :=
  if f.size.val = 0 then .error .fifoUnderflow
  else .ok (f.buf[f.head.val],
    { f with head := f.slot 1, size := ⟨f.size.val - 1, by omega⟩ })

/-- `FifoClear` (R31): the slots keep their values. -/
def Fifo.clear {α : Type} {n : Nat} (f : Fifo α n) : Fifo α n :=
  { f with head := ⟨0, f.head.pos⟩, size := ⟨0, Nat.succ_pos n⟩ }

/-- Push a list in order, each element by `FifoPush`. -/
def Fifo.pushAll {α : Type} {n : Nat} (f : Fifo α n) : List α → Except FaultCode (Fifo α n)
  | [] => .ok f
  | v :: vs =>
    match f.push v with
    | .ok g => g.pushAll vs
    | .error c => .error c

/-- Push a command's whole output, or nothing (41_usb_extractor.md R65, 42_translator.md R75): the free space for all of
it is checked before the first push. -/
def Fifo.enqueue {α : Type} {n : Nat} (f : Fifo α n) (vs : List α) : Except FaultCode (Fifo α n) :=
  if n < f.count + vs.length then .error .fifoOverflow else f.pushAll vs

/-- The elements held, oldest first (R25, R32). -/
def Fifo.contents {α : Type} {n : Nat} (f : Fifo α n) : List α :=
  (List.range f.size.val).map fun i => f.buf[(f.slot i).val]

/-! ### Reset -/

/-- Global reset of a running core (R106): `FifoClear` leaves the slots as they are (R31), and the unspecified
registers `TR_D1` and `TR_SXBUF` are left as they are (assumption log 5). Reset has no response. -/
def State.globalReset (s : State) (group : Option Nibble) (cable : Nibble) : State :=
  { s with
    cfgGroup := group.getD 0
    cfgCable := cable
    fltCode := 0
    uxFifo := s.uxFifo.clear
    trRs := .none
    trNd := 0
    trSxst := .idle
    trSxcnt := 0
    trFifo := s.trFifo.clear
    resp := .none }

/-- What `bs.reset` writes (42_translator.md R88). -/
def State.clearTranslator (s : State) : State :=
  { s with
    trRs := .none
    trNd := 0
    trSxst := .idle
    trSxcnt := 0
    trFifo := s.trFifo.clear }

/-- Construction from an unbounded configuration (10_state.md R16): a value of 16 or more is refused with
`CONFIG_RANGE` and there is no state. -/
def construct (group cable : Nat) : Host.Outcome State Fault Refusal :=
  if group < 16 ∧ cable < 16 then
    .next (State.resetWith (some (BitVec.ofNat 4 group)) (BitVec.ofNat 4 cable))
  else .fault .configRange

/-- The code of each fault that stops construction (R93). -/
def Fault.code : Fault → FaultCode
  | .configRange => .configRange

end Sys2Proof.Machine
end

