-- ==== Sys2Proof/Machine/Operands.lean ====
section
/-! DEFINITION. Operand forms and data formats: the fields of `ARG`, the CIN table, the MIDI 1.0 data counts, and the
UMP words the core builds (30_encoding.md, 41_usb_extractor.md §1, 42_translator.md §1). -/

namespace Sys2Proof.Machine

/-- The parameter values of this hardware (00_scope.md R6; assumption log 7). -/
def params : Config.Params := { mtSystem := 0x2, sysexSingleStatus := 0x0 }

/-! ### Fields of the operand -/

/-- Byte `i` of the operand: `ARG[8i+7:8i]` (R46). -/
def argByte (arg : Word) (i : Nat) : Byte := arg.extractLsb' (8 * i) 8

/-- `CN` of a USB-MIDI packet (R52). -/
def packetCable (p : Word) : Nibble := p.extractLsb' 28 4

/-- `CIN` of a USB-MIDI packet (R52). -/
def packetCin (p : Word) : Nibble := p.extractLsb' 24 4

/-- The payload bytes of a USB-MIDI packet, most significant first (R52, 20_memory.md R38). -/
def packetPayload (p : Word) : List Byte := [p.extractLsb' 16 8, p.extractLsb' 8 8, p.extractLsb' 0 8]

/-- `count(CIN)`, the CIN table (R64). -/
def cinCount (cin : Nibble) : Nat :=
  match cin.toNat with
  | 0x0 => 0 | 0x1 => 0 | 0x2 => 2 | 0x3 => 3
  | 0x4 => 3 | 0x5 => 1 | 0x6 => 2 | 0x7 => 3
  | 0x8 => 3 | 0x9 => 3 | 0xA => 3 | 0xB => 3
  | 0xC => 2 | 0xD => 2 | 0xE => 3 | _ => 1

/-! ### MIDI 1.0 bytes -/

/-- The data-byte count of a status, or `RES` for a reserved status (R70). -/
inductive Need where
  | zero
  | one
  | two
  | res
deriving DecidableEq, Repr

/-- `NEED(s)` (R70). Total: `RES` where it is never evaluated, which covers 0xF0, 0xF8..0xFF and, below the table,
0x00..0x7F (assumption log 8). -/
def need (s : Byte) : Need :=
  if s < 0x80 then .res
  else if s < 0xC0 then .two
  else if s < 0xE0 then .one
  else if s < 0xF0 then .two
  else if s = 0xF1 then .one
  else if s = 0xF2 then .two
  else if s = 0xF3 then .one
  else if s = 0xF6 then .zero
  else .res

/-- A status byte has bit 7 set (R53). -/
def isStatus (b : Byte) : Bool := 0x80 ≤ b

/-- A realtime status (R78). -/
def isRealtime (b : Byte) : Bool := 0xF8 ≤ b

/-! ### UMP words -/

/-- `MT(s)`, the message type of the one-word message of status `s` (R71); total beyond R71's two ranges by assumption
log 13. -/
def messageType (p : Config.Params) (s : Byte) : Nibble := if s < 0xF0 then 0x2 else p.mtSystem

/-- `Word1(s, a, c)`, a one-word message (R54, R72). -/
def word1 (p : Config.Params) (group : Nibble) (s a c : Byte) : Word :=
  messageType p s ++ group ++ s ++ a ++ c

/-- The sysex status field (R56). -/
def sxComplete : Nibble := 0x0
/-- See `sxComplete`. -/
def sxStart : Nibble := 0x1
/-- See `sxComplete`. -/
def sxContinue : Nibble := 0x2
/-- See `sxComplete`. -/
def sxEnd : Nibble := 0x3

/-- `B(i)`: byte `i` of a packet of `n` bytes, 0 in an unused position (R73). -/
def sxByte (n : Nat) (buf : List Byte) (i : Nat) : Byte := if i < n then buf.getD i 0 else 0

/-- `SxPacket(st, n, buf)`, a sysex7 packet: word0 then word1 (R55, R73). -/
def sxPacket (group st : Nibble) (n : Nat) (buf : List Byte) : List Word :=
  [ (0x3#4) ++ group ++ st ++ BitVec.ofNat 4 n ++ sxByte n buf 0 ++ sxByte n buf 1,
    sxByte n buf 2 ++ sxByte n buf 3 ++ sxByte n buf 4 ++ sxByte n buf 5 ]

end Sys2Proof.Machine
end

