-- ==== Sys2Proof/Machine/Flags.lean ====
section
/-! DEFINITION. The core has no condition codes. These are the three status values a host can read (10_state.md R14),
and how a Boolean is returned (00_scope.md R8). -/

namespace Sys2Proof.Machine

/-- A Boolean as a returned value (R8). -/
def boolValue (b : Bool) : Word := if b then 1 else 0

/-- The status `usb.avail` returns: a byte is waiting (41_usb_extractor.md R66). -/
def State.uxAvailable (s : State) : Bool := !s.uxFifo.isEmpty

/-- The status `bs.empty` returns: no word is waiting (42_translator.md R87). -/
def State.trEmpty (s : State) : Bool := s.trFifo.isEmpty

/-- The FAULT output (10_state.md R17). -/
def State.faultOut (s : State) : Bool := s.fltCode != 0

end Sys2Proof.Machine
end

