-- ==== Sys2Proof/Machine/Le7.lean ====
section
/-! DEFINITION. The LE7 family: `le7.dec2` and `le7.dec4` (40_le7.md). The decoder has no state (10_state.md R18). -/

namespace Sys2Proof.Machine

/-- `LE7Decode_N` of a sequence of `N` bytes, byte 0 first (R59): the sum of the low seven bits of byte `i`, shifted left
by `7 i`. It is defined for every `N`. -/
def le7Decode : List Byte → Nat
  | [] => 0
  | b :: bs => (b &&& 0x7F).toNat + le7Decode bs * 2 ^ 7

/-- Group `i` of an operand: the low seven bits of its byte `i`, at bit `7 i` of the result (R62, R63). -/
def le7Group (arg : Word) (i : Nat) : Word := (arg.extractLsb' (8 * i) 7).setWidth 32 <<< (7 * i)

/-- The value `le7.dec2` returns (R62). -/
def le7Value2 (arg : Word) : Word := le7Group arg 0 ||| le7Group arg 1

/-- The value `le7.dec4` returns (R63). -/
def le7Value4 (arg : Word) : Word := le7Group arg 0 ||| le7Group arg 1 ||| le7Group arg 2 ||| le7Group arg 3

/-- `le7.dec2` (R62). -/
def execLe7Dec2 (arg : Word) (s : State) : Host.Outcome State Fault Refusal :=
  runCommand s <|
    if arg.extractLsb' 16 16 ≠ 0 then .error .illegalCommand
    else .ok (s.reply (.val (le7Value2 arg)))

/-- `le7.dec4` (R63). -/
def execLe7Dec4 (arg : Word) (s : State) : Host.Outcome State Fault Refusal :=
  runCommand s (.ok (s.reply (.val (le7Value4 arg))))

end Sys2Proof.Machine
end

