-- ==== Sys2Proof/Machine/Translator.lean ====
section
/-! DEFINITION. The translator's family: `bs.push`, `bs.pop`, `bs.empty`, `bs.reset` (42_translator.md), and `bs.push`
of a byte of each class (the rows of format midi1_byte). -/

namespace Sys2Proof.Machine

/-- What one byte does before the capacity check (R74): the registers it would leave, and `out`, the words it would
push, in order. -/
abbrev Translated := State × List Word

/-- Byte 0xF0 (R76). -/
def sysexStart (s : State) : Translated :=
  ({ s with trSxst := .started, trSxcnt := 0, trRs := .none, trNd := 0 }, [])

/-- The sysex status of the packet that ends a message (R77). -/
def endStatus (p : Config.Params) (st : SxState) : Nibble :=
  if st = .started then p.sysexSingleStatus else sxEnd

/-- Byte 0xF7 while a sysex message is active (R77). -/
def sysexEnd (p : Config.Params) (s : State) : Translated :=
  ({ s with trSxst := .idle, trSxcnt := 0 },
    sxPacket s.cfgGroup (endStatus p s.trSxst) s.trSxcnt.val s.trSxbuf.toList)

/-- A realtime byte (R79): no register changes. -/
def realtime (p : Config.Params) (b : Byte) (s : State) : Translated :=
  (s, [word1 p s.cfgGroup b 0 0])

/-- Any other status byte (R80): it aborts an active sysex message (R81) and becomes the running status; with
`NEED = 0` it is emitted at once (R82). -/
def otherStatus (p : Config.Params) (b : Byte) (s : State) : Translated :=
  ({ s with trSxst := .idle, trSxcnt := 0, trRs := some b, trNd := 0 },
    if need b = .zero then [word1 p s.cfgGroup b 0 0] else [])

/-- Byte 0xF7: it ends an active sysex message (R77), and is a reserved status otherwise (R80). -/
def sysexEndOrStatus (p : Config.Params) (s : State) : Translated :=
  if s.trSxst ≠ .idle then sysexEnd p s else otherStatus p 0xF7 s

/-- The sysex status of a packet flushed at its sixth byte (R84). -/
def flushStatus (st : SxState) : Nibble := if st = .started then sxStart else sxContinue

/-- A data byte while a sysex message is active (R84): the sixth byte flushes the accumulator. -/
def sysexData (b : Byte) (s : State) : Translated :=
  let buf := s.trSxbuf.set s.trSxcnt.val b
  if h : s.trSxcnt.val + 1 < Config.sxCap then
    ({ s with trSxbuf := buf, trSxcnt := ⟨s.trSxcnt.val + 1, h⟩ }, [])
  else
    ({ s with trSxbuf := buf, trSxst := .continuing, trSxcnt := 0 },
      sxPacket s.cfgGroup (flushStatus s.trSxst) 6 buf.toList)

/-- A data byte under running status `st` (the rows `SOME(s)` of R85; `TR_ND` under a count of 1: assumption log 12). -/
def statusData (p : Config.Params) (st b : Byte) (s : State) : Translated :=
  match need st with
  | .zero => (s, [])
  | .res => (s, [])
  | .one => (s, [word1 p s.cfgGroup st b 0])
  | .two =>
    if s.trNd = 0 then ({ s with trD1 := b, trNd := 1 }, [])
    else ({ s with trNd := 0 }, [word1 p s.cfgGroup st s.trD1 b])

/-- A data byte while no sysex message is active (R85). -/
def runningData (p : Config.Params) (b : Byte) (s : State) : Translated :=
  match s.trRs with
  | .none => (s, [])
  | .some st => statusData p st b s

/-- A data byte (R83). -/
def dataByte (p : Config.Params) (b : Byte) (s : State) : Translated :=
  if s.trSxst ≠ .idle then sysexData b s else runningData p b s

/-- The branches of `bs.push` (R74). -/
def translateByte (p : Config.Params) (b : Byte) (s : State) : Translated :=
  if isStatus b then
    if b = 0xF0 then sysexStart s
    else if b = 0xF7 ∧ s.trSxst ≠ .idle then sysexEnd p s
    else if isRealtime b then realtime p b s
    else otherStatus p b s
  else dataByte p b s

/-- Commit a byte (R75): if all of `out` fits, its words are pushed in order and the registers are written; otherwise
the command faults and nothing is written. -/
def commit (s : State) (r : Translated) : Except FaultCode State :=
  match s.trFifo.enqueue r.2 with
  | .ok f => .ok ({ r.1 with trFifo := f }.reply .none)
  | .error c => .error c

/-- `bs.push` (R74). -/
def execBsPush (arg : Word) (s : State) : Host.Outcome State Fault Refusal :=
  runCommand s <|
    if arg.extractLsb' 8 24 ≠ 0 then .error .illegalCommand
    else commit s (translateByte params (argByte arg 0) s)

/-- Pop a word and return it (R86). -/
def popWord (s : State) : Except FaultCode State :=
  match s.trFifo.pop with
  | .ok (w, f) => .ok ({ s with trFifo := f }.reply (.val w))
  | .error c => .error c

/-- `bs.pop` (R86). -/
def execBsPop (arg : Word) (s : State) : Host.Outcome State Fault Refusal :=
  runCommand s <|
    if arg ≠ 0 then .error .illegalCommand
    else popWord s

/-- `bs.empty` (R87). -/
def execBsEmpty (arg : Word) (s : State) : Host.Outcome State Fault Refusal :=
  runCommand s <|
    if arg ≠ 0 then .error .illegalCommand
    else .ok (s.reply (.val (boolValue s.trEmpty)))

/-- `bs.reset` (R88). -/
def execBsReset (arg : Word) (s : State) : Host.Outcome State Fault Refusal :=
  runCommand s <|
    if arg ≠ 0 then .error .illegalCommand
    else .ok (s.clearTranslator.reply .none)

/-! ### `bs.push` of each byte class -/

/-- `bs.push` of a data byte (R83). -/
def execMidi1Data (data : BitVec 7) (s : State) : Host.Outcome State Fault Refusal :=
  runCommand s (commit s (dataByte params (dataByteOf data) s))

/-- `bs.push` of a note-off status (R80). -/
def execMidi1NoteOff (channel : Nibble) (s : State) : Host.Outcome State Fault Refusal :=
  runCommand s (commit s (otherStatus params (statusByteOf 0x8 channel) s))

/-- `bs.push` of a note-on status (R80). -/
def execMidi1NoteOn (channel : Nibble) (s : State) : Host.Outcome State Fault Refusal :=
  runCommand s (commit s (otherStatus params (statusByteOf 0x9 channel) s))

/-- `bs.push` of a poly-pressure status (R80). -/
def execMidi1PolyPressure (channel : Nibble) (s : State) : Host.Outcome State Fault Refusal :=
  runCommand s (commit s (otherStatus params (statusByteOf 0xA channel) s))

/-- `bs.push` of a control-change status (R80). -/
def execMidi1ControlChange (channel : Nibble) (s : State) : Host.Outcome State Fault Refusal :=
  runCommand s (commit s (otherStatus params (statusByteOf 0xB channel) s))

/-- `bs.push` of a program-change status (R80). -/
def execMidi1ProgramChange (channel : Nibble) (s : State) : Host.Outcome State Fault Refusal :=
  runCommand s (commit s (otherStatus params (statusByteOf 0xC channel) s))

/-- `bs.push` of a channel-pressure status (R80). -/
def execMidi1ChannelPressure (channel : Nibble) (s : State) : Host.Outcome State Fault Refusal :=
  runCommand s (commit s (otherStatus params (statusByteOf 0xD channel) s))

/-- `bs.push` of a pitch-bend status (R80). -/
def execMidi1PitchBend (channel : Nibble) (s : State) : Host.Outcome State Fault Refusal :=
  runCommand s (commit s (otherStatus params (statusByteOf 0xE channel) s))

/-- `bs.push 0xF0`, System Exclusive start (R76). -/
def execMidi1SysexStart (s : State) : Host.Outcome State Fault Refusal :=
  runCommand s (commit s (sysexStart s))

/-- `bs.push 0xF1`, system common, 1 data byte (R80). -/
def execMidi1SystemCommonF1 (s : State) : Host.Outcome State Fault Refusal :=
  runCommand s (commit s (otherStatus params 0xF1 s))

/-- `bs.push 0xF2`, system common, 2 data bytes (R80). -/
def execMidi1SystemCommonF2 (s : State) : Host.Outcome State Fault Refusal :=
  runCommand s (commit s (otherStatus params 0xF2 s))

/-- `bs.push 0xF3`, system common, 1 data byte (R80). -/
def execMidi1SystemCommonF3 (s : State) : Host.Outcome State Fault Refusal :=
  runCommand s (commit s (otherStatus params 0xF3 s))

/-- `bs.push 0xF4`, a reserved status (R80). -/
def execMidi1ReservedF4 (s : State) : Host.Outcome State Fault Refusal :=
  runCommand s (commit s (otherStatus params 0xF4 s))

/-- `bs.push 0xF5`, a reserved status (R80). -/
def execMidi1ReservedF5 (s : State) : Host.Outcome State Fault Refusal :=
  runCommand s (commit s (otherStatus params 0xF5 s))

/-- `bs.push 0xF6`, tune-request, emitted at its status byte (R80, R82). -/
def execMidi1TuneRequest (s : State) : Host.Outcome State Fault Refusal :=
  runCommand s (commit s (otherStatus params 0xF6 s))

/-- `bs.push 0xF7`, System Exclusive end, or a reserved status when no sysex message is active (R77, R80). -/
def execMidi1SysexEnd (s : State) : Host.Outcome State Fault Refusal :=
  runCommand s (commit s (sysexEndOrStatus params s))

/-- `bs.push 0xF8`, realtime (R78, R79). -/
def execMidi1RealtimeF8 (s : State) : Host.Outcome State Fault Refusal :=
  runCommand s (commit s (realtime params 0xF8 s))

/-- `bs.push 0xF9`, realtime (R78, R79). -/
def execMidi1RealtimeF9 (s : State) : Host.Outcome State Fault Refusal :=
  runCommand s (commit s (realtime params 0xF9 s))

/-- `bs.push 0xFA`, realtime (R78, R79). -/
def execMidi1RealtimeFA (s : State) : Host.Outcome State Fault Refusal :=
  runCommand s (commit s (realtime params 0xFA s))

/-- `bs.push 0xFB`, realtime (R78, R79). -/
def execMidi1RealtimeFB (s : State) : Host.Outcome State Fault Refusal :=
  runCommand s (commit s (realtime params 0xFB s))

/-- `bs.push 0xFC`, realtime (R78, R79). -/
def execMidi1RealtimeFC (s : State) : Host.Outcome State Fault Refusal :=
  runCommand s (commit s (realtime params 0xFC s))

/-- `bs.push 0xFD`, realtime (R78, R79). -/
def execMidi1RealtimeFD (s : State) : Host.Outcome State Fault Refusal :=
  runCommand s (commit s (realtime params 0xFD s))

/-- `bs.push 0xFE`, realtime (R78, R79). -/
def execMidi1RealtimeFE (s : State) : Host.Outcome State Fault Refusal :=
  runCommand s (commit s (realtime params 0xFE s))

/-- `bs.push 0xFF`, realtime (R78, R79). -/
def execMidi1RealtimeFF (s : State) : Host.Outcome State Fault Refusal :=
  runCommand s (commit s (realtime params 0xFF s))

end Sys2Proof.Machine
end

