-- ==== Sys2Proof/Machine/Usb.lean ====
section
/-! DEFINITION. The USB-MIDI extractor's family: `usb.recv`, `usb.avail`, `usb.read` (41_usb_extractor.md), and
`usb.recv` of a packet of each CIN (the rows of format usb_midi_packet). -/

namespace Sys2Proof.Machine

/-- Steps 1 and 4 of R65 for a packet of cable `cn` that carries `bytes`: another cable's packet is discarded before
anything else is looked at; otherwise the bytes are pushed, all or none. -/
def receive (cn : Nibble) (bytes : List Byte) (s : State) : Except FaultCode State :=
  if cn ≠ s.cfgCable then .ok (s.reply .none)
  else match s.uxFifo.enqueue bytes with
    | .ok f => .ok ({ s with uxFifo := f }.reply .none)
    | .error c => .error c

/-- `usb.recv` (R65). -/
def execUsbRecv (arg : Word) (s : State) : Host.Outcome State Fault Refusal :=
  runCommand s (receive (packetCable arg) ((packetPayload arg).take (cinCount (packetCin arg))) s)

/-- `usb.avail` (R66). -/
def execUsbAvail (arg : Word) (s : State) : Host.Outcome State Fault Refusal :=
  runCommand s <|
    if arg ≠ 0 then .error .illegalCommand
    else .ok (s.reply (.val (boolValue s.uxAvailable)))

/-- Pop a byte and return it, zero-extended (R67). -/
def readByte (s : State) : Except FaultCode State :=
  match s.uxFifo.pop with
  | .ok (b, f) => .ok ({ s with uxFifo := f }.reply (.val (b.setWidth 32)))
  | .error c => .error c

/-- `usb.read` (R67). -/
def execUsbRead (arg : Word) (s : State) : Host.Outcome State Fault Refusal :=
  runCommand s <|
    if arg ≠ 0 then .error .illegalCommand
    else readByte s

/-- `usb.recv` of a packet with CIN 0x0, reserved: 0 bytes (R64, R65). -/
def execUsbCin0 (cn : Nibble) (_p0 _p1 _p2 : Byte) (s : State) : Host.Outcome State Fault Refusal :=
  runCommand s (receive cn [] s)

/-- `usb.recv` of a packet with CIN 0x1, reserved: 0 bytes (R64, R65). -/
def execUsbCin1 (cn : Nibble) (_p0 _p1 _p2 : Byte) (s : State) : Host.Outcome State Fault Refusal :=
  runCommand s (receive cn [] s)

/-- `usb.recv` of a packet with CIN 0x2, 2-byte system common: 2 bytes (R64, R65). -/
def execUsbCin2 (cn : Nibble) (p0 p1 _p2 : Byte) (s : State) : Host.Outcome State Fault Refusal :=
  runCommand s (receive cn [p0, p1] s)

/-- `usb.recv` of a packet with CIN 0x3, 3-byte system common: 3 bytes (R64, R65). -/
def execUsbCin3 (cn : Nibble) (p0 p1 p2 : Byte) (s : State) : Host.Outcome State Fault Refusal :=
  runCommand s (receive cn [p0, p1, p2] s)

/-- `usb.recv` of a packet with CIN 0x4, sysex starts or continues: 3 bytes (R64, R65). -/
def execUsbCin4 (cn : Nibble) (p0 p1 p2 : Byte) (s : State) : Host.Outcome State Fault Refusal :=
  runCommand s (receive cn [p0, p1, p2] s)

/-- `usb.recv` of a packet with CIN 0x5, single byte, or sysex ends with 1 byte: 1 byte (R64, R65). -/
def execUsbCin5 (cn : Nibble) (p0 _p1 _p2 : Byte) (s : State) : Host.Outcome State Fault Refusal :=
  runCommand s (receive cn [p0] s)

/-- `usb.recv` of a packet with CIN 0x6, sysex ends with 2 bytes: 2 bytes (R64, R65). -/
def execUsbCin6 (cn : Nibble) (p0 p1 _p2 : Byte) (s : State) : Host.Outcome State Fault Refusal :=
  runCommand s (receive cn [p0, p1] s)

/-- `usb.recv` of a packet with CIN 0x7, sysex ends with 3 bytes: 3 bytes (R64, R65). -/
def execUsbCin7 (cn : Nibble) (p0 p1 p2 : Byte) (s : State) : Host.Outcome State Fault Refusal :=
  runCommand s (receive cn [p0, p1, p2] s)

/-- `usb.recv` of a packet with CIN 0x8, note off: 3 bytes (R64, R65). -/
def execUsbCin8 (cn : Nibble) (p0 p1 p2 : Byte) (s : State) : Host.Outcome State Fault Refusal :=
  runCommand s (receive cn [p0, p1, p2] s)

/-- `usb.recv` of a packet with CIN 0x9, note on: 3 bytes (R64, R65). -/
def execUsbCin9 (cn : Nibble) (p0 p1 p2 : Byte) (s : State) : Host.Outcome State Fault Refusal :=
  runCommand s (receive cn [p0, p1, p2] s)

/-- `usb.recv` of a packet with CIN 0xA, poly pressure: 3 bytes (R64, R65). -/
def execUsbCinA (cn : Nibble) (p0 p1 p2 : Byte) (s : State) : Host.Outcome State Fault Refusal :=
  runCommand s (receive cn [p0, p1, p2] s)

/-- `usb.recv` of a packet with CIN 0xB, control change: 3 bytes (R64, R65). -/
def execUsbCinB (cn : Nibble) (p0 p1 p2 : Byte) (s : State) : Host.Outcome State Fault Refusal :=
  runCommand s (receive cn [p0, p1, p2] s)

/-- `usb.recv` of a packet with CIN 0xC, program change: 2 bytes (R64, R65). -/
def execUsbCinC (cn : Nibble) (p0 p1 _p2 : Byte) (s : State) : Host.Outcome State Fault Refusal :=
  runCommand s (receive cn [p0, p1] s)

/-- `usb.recv` of a packet with CIN 0xD, channel pressure: 2 bytes (R64, R65). -/
def execUsbCinD (cn : Nibble) (p0 p1 _p2 : Byte) (s : State) : Host.Outcome State Fault Refusal :=
  runCommand s (receive cn [p0, p1] s)

/-- `usb.recv` of a packet with CIN 0xE, pitch bend: 3 bytes (R64, R65). -/
def execUsbCinE (cn : Nibble) (p0 p1 p2 : Byte) (s : State) : Host.Outcome State Fault Refusal :=
  runCommand s (receive cn [p0, p1, p2] s)

/-- `usb.recv` of a packet with CIN 0xF, single byte: 1 byte (R64, R65). -/
def execUsbCinF (cn : Nibble) (p0 _p1 _p2 : Byte) (s : State) : Host.Outcome State Fault Refusal :=
  runCommand s (receive cn [p0] s)

end Sys2Proof.Machine
end

