-- ==== Sys2Proof/Machine/Dispatch.lean ====
section
/-! DEFINITION. One arm per instruction. -/

namespace Sys2Proof.Machine

def exec (i : Instr) (s : State) : Host.Outcome State Fault Refusal :=
  match i with
  | .le7Dec2 arg => Sys2Proof.Machine.execLe7Dec2 arg s
  | .le7Dec4 arg => Sys2Proof.Machine.execLe7Dec4 arg s
  | .usbRecv arg => Sys2Proof.Machine.execUsbRecv arg s
  | .usbAvail arg => Sys2Proof.Machine.execUsbAvail arg s
  | .usbRead arg => Sys2Proof.Machine.execUsbRead arg s
  | .bsPush arg => Sys2Proof.Machine.execBsPush arg s
  | .bsPop arg => Sys2Proof.Machine.execBsPop arg s
  | .bsEmpty arg => Sys2Proof.Machine.execBsEmpty arg s
  | .bsReset arg => Sys2Proof.Machine.execBsReset arg s
  | .midi1Data data => Sys2Proof.Machine.execMidi1Data data s
  | .midi1NoteOff channel => Sys2Proof.Machine.execMidi1NoteOff channel s
  | .midi1NoteOn channel => Sys2Proof.Machine.execMidi1NoteOn channel s
  | .midi1PolyPressure channel => Sys2Proof.Machine.execMidi1PolyPressure channel s
  | .midi1ControlChange channel => Sys2Proof.Machine.execMidi1ControlChange channel s
  | .midi1ProgramChange channel => Sys2Proof.Machine.execMidi1ProgramChange channel s
  | .midi1ChannelPressure channel => Sys2Proof.Machine.execMidi1ChannelPressure channel s
  | .midi1PitchBend channel => Sys2Proof.Machine.execMidi1PitchBend channel s
  | .midi1SysexStart => Sys2Proof.Machine.execMidi1SysexStart s
  | .midi1SystemCommonF1 => Sys2Proof.Machine.execMidi1SystemCommonF1 s
  | .midi1SystemCommonF2 => Sys2Proof.Machine.execMidi1SystemCommonF2 s
  | .midi1SystemCommonF3 => Sys2Proof.Machine.execMidi1SystemCommonF3 s
  | .midi1ReservedF4 => Sys2Proof.Machine.execMidi1ReservedF4 s
  | .midi1ReservedF5 => Sys2Proof.Machine.execMidi1ReservedF5 s
  | .midi1TuneRequest => Sys2Proof.Machine.execMidi1TuneRequest s
  | .midi1SysexEnd => Sys2Proof.Machine.execMidi1SysexEnd s
  | .midi1RealtimeF8 => Sys2Proof.Machine.execMidi1RealtimeF8 s
  | .midi1RealtimeF9 => Sys2Proof.Machine.execMidi1RealtimeF9 s
  | .midi1RealtimeFA => Sys2Proof.Machine.execMidi1RealtimeFA s
  | .midi1RealtimeFB => Sys2Proof.Machine.execMidi1RealtimeFB s
  | .midi1RealtimeFC => Sys2Proof.Machine.execMidi1RealtimeFC s
  | .midi1RealtimeFD => Sys2Proof.Machine.execMidi1RealtimeFD s
  | .midi1RealtimeFE => Sys2Proof.Machine.execMidi1RealtimeFE s
  | .midi1RealtimeFF => Sys2Proof.Machine.execMidi1RealtimeFF s
  | .usbCin0 cn p0 p1 p2 => Sys2Proof.Machine.execUsbCin0 cn p0 p1 p2 s
  | .usbCin1 cn p0 p1 p2 => Sys2Proof.Machine.execUsbCin1 cn p0 p1 p2 s
  | .usbCin2 cn p0 p1 p2 => Sys2Proof.Machine.execUsbCin2 cn p0 p1 p2 s
  | .usbCin3 cn p0 p1 p2 => Sys2Proof.Machine.execUsbCin3 cn p0 p1 p2 s
  | .usbCin4 cn p0 p1 p2 => Sys2Proof.Machine.execUsbCin4 cn p0 p1 p2 s
  | .usbCin5 cn p0 p1 p2 => Sys2Proof.Machine.execUsbCin5 cn p0 p1 p2 s
  | .usbCin6 cn p0 p1 p2 => Sys2Proof.Machine.execUsbCin6 cn p0 p1 p2 s
  | .usbCin7 cn p0 p1 p2 => Sys2Proof.Machine.execUsbCin7 cn p0 p1 p2 s
  | .usbCin8 cn p0 p1 p2 => Sys2Proof.Machine.execUsbCin8 cn p0 p1 p2 s
  | .usbCin9 cn p0 p1 p2 => Sys2Proof.Machine.execUsbCin9 cn p0 p1 p2 s
  | .usbCinA cn p0 p1 p2 => Sys2Proof.Machine.execUsbCinA cn p0 p1 p2 s
  | .usbCinB cn p0 p1 p2 => Sys2Proof.Machine.execUsbCinB cn p0 p1 p2 s
  | .usbCinC cn p0 p1 p2 => Sys2Proof.Machine.execUsbCinC cn p0 p1 p2 s
  | .usbCinD cn p0 p1 p2 => Sys2Proof.Machine.execUsbCinD cn p0 p1 p2 s
  | .usbCinE cn p0 p1 p2 => Sys2Proof.Machine.execUsbCinE cn p0 p1 p2 s
  | .usbCinF cn p0 p1 p2 => Sys2Proof.Machine.execUsbCinF cn p0 p1 p2 s

end Sys2Proof.Machine
end

