-- ==== Sys2Proof/Machine/Port.lean ====
section
/-! DEFINITION. What the core does with one transaction of the host (00_scope.md R7), and how an instruction is put on
the command port. Step.lean only calls these. -/

namespace Sys2Proof.Machine

/-- Perform one command word: the instruction it decodes to, or the rejection of an illegal command (30_encoding.md
R45). In the faulted state both are ignored (60_exceptions.md R96). -/
def performCommand (w : CommandWord) (s : State) : Host.Outcome State Fault Refusal :=
  match decode (.cmd40 w) with
  | .ok i => exec i s
  | .error _ => rejectIllegal s

/-- Perform one transaction. -/
def perform (e : HostEvent) (s : State) : Host.Outcome State Fault Refusal :=
  match e with
  | .command w => performCommand w s
  | .reset group cable => .next (s.globalReset group cable)

/-- Take the oldest transaction and perform it; with none pending the core waits, its state unchanged
(60_exceptions.md R105). -/
def runPort (s : State) : Host.Outcome State Fault Refusal :=
  match s.port with
  | [] => .next s
  | e :: rest => perform e { s with port := rest }

/-- Put a command word on the port before whatever is pending. -/
def State.withCommand (s : State) (w : CommandWord) : State := { s with port := .command w :: s.port }

end Sys2Proof.Machine
end

