-- ==== Sys2Proof/Machine/Step.lean ====
section
/-! DEFINITION. The step of the machine: one transaction of the host (00_scope.md R7). -/

namespace Sys2Proof.Machine

/-- One step. It always answers a next state: the core's faults are responses (60_exceptions.md R95, R96). -/
def step (s : State) : Host.Outcome State Fault Refusal := runPort s

/-- `s` with an opcode-table word on the command port as the next transaction: a command word as it is, a raw MIDI 1.0
byte as the operand of `bs.push`, a USB-MIDI packet as that of `usb.recv` (assumption log 1). -/
def State.withFetchWord (s : State) (nbits w : Nat) : State := s.withCommand (tableEncoded nbits w).toCommand

end Sys2Proof.Machine
end

