-- ==== Sys2Proof/Machine/Assembler.lean ====
section
/-! DEFINITION. Assembly lines and the two pseudo-instructions (30_encoding.md R49, R50). The core never sees them: the
host's assembler turns a line into the command words it issues. -/

namespace Sys2Proof.Machine

/-- A line of assembly with its operands as numbers not yet checked (R49, R50). -/
inductive AsmLine where
  | le7Dec2 (b0 b1 : Nat)
  | le7Dec4 (b0 b1 b2 b3 : Nat)
  | usbRecv (p : Nat)
  | usbAvail
  | usbRead
  | bsPush (b : Nat)
  | bsPop
  | bsEmpty
  | bsReset
  | bsSend (bytes : List Nat)
  | bsPopn (k : Nat)
deriving DecidableEq, Repr

/-- A byte operand; one that does not fit has no encoding (R49). -/
def asmByte (n : Nat) : Option Byte := if n < 2 ^ 8 then some (BitVec.ofNat 8 n) else none

/-- A packet operand; one that does not fit has no encoding (R49). -/
def asmPacket (n : Nat) : Option Word := if n < 2 ^ 32 then some (BitVec.ofNat 32 n) else none

/-- `bs.push b` (R49). -/
def asmPush (b : Byte) : CommandWord := commandWord 0x20 (pushOperand b)

/-- All of a list of operands, or none. -/
def asmBytes : List Nat → Option (List Byte)
  | [] => some []
  | n :: ns =>
    match asmByte n, asmBytes ns with
    | some b, some bs => some (b :: bs)
    | _, _ => none

/-- The command words of a line, in the order the host issues them; `none` where the assembler refuses it (R49, R50).
A pseudo-instruction needs at least one command. -/
def assemble : AsmLine → Option (List CommandWord)
  | .le7Dec2 b0 b1 => do
    let b0 ← asmByte b0
    let b1 ← asmByte b1
    some [commandWord 0x01 (0#16 ++ b1 ++ b0)]
  | .le7Dec4 b0 b1 b2 b3 => do
    let b0 ← asmByte b0
    let b1 ← asmByte b1
    let b2 ← asmByte b2
    let b3 ← asmByte b3
    some [commandWord 0x02 (b3 ++ b2 ++ b1 ++ b0)]
  | .usbRecv p => do
    let p ← asmPacket p
    some [commandWord 0x10 p]
  | .usbAvail => some [commandWord 0x11 0]
  | .usbRead => some [commandWord 0x12 0]
  | .bsPush b => do
    let b ← asmByte b
    some [asmPush b]
  | .bsPop => some [commandWord 0x21 0]
  | .bsEmpty => some [commandWord 0x22 0]
  | .bsReset => some [commandWord 0x23 0]
  | .bsSend bytes =>
    if bytes.isEmpty then none
    else (asmBytes bytes).map fun bs => bs.map asmPush
  | .bsPopn k => if k = 0 then none else some (List.replicate k (commandWord 0x21 0))

/-! ### Text of a line (R49; assumption log 10) -/

/-- A character between tokens. -/
def isBlank (c : Char) : Bool := c == ' ' || c == '\t'

/-- The line without blanks at either end. -/
def trimBlanks (cs : List Char) : List Char := ((cs.dropWhile isBlank).reverse.dropWhile isBlank).reverse

/-- A digit of base 10 or 16. -/
def digitValue (base : Nat) (c : Char) : Option Nat :=
  let v :=
    if '0' ≤ c ∧ c ≤ '9' then c.toNat - '0'.toNat
    else if 'A' ≤ c ∧ c ≤ 'F' then c.toNat - 'A'.toNat + 10
    else if 'a' ≤ c ∧ c ≤ 'f' then c.toNat - 'a'.toNat + 10
    else 16
  if v < base then some v else none

/-- The digits of a number, most significant first, after the value `acc`. -/
def readDigits (base : Nat) : Nat → List Char → Option Nat
  | acc, [] => some acc
  | acc, c :: cs =>
    match digitValue base c with
    | some d => readDigits base (acc * base + d) cs
    | none => none

/-- A number: hexadecimal with `0x`, or decimal (R49). -/
def readNumber (cs : List Char) : Option Nat :=
  match cs with
  | [] => none
  | '0' :: 'x' :: d :: ds => readDigits 16 0 (d :: ds)
  | d :: ds => readDigits 10 0 (d :: ds)

/-- The pieces between commas. -/
def splitCommas : List Char → List Char → List (List Char)
  | piece, [] => [piece.reverse]
  | piece, c :: cs => if c = ',' then piece.reverse :: splitCommas [] cs else splitCommas (c :: piece) cs

/-- All the numbers of an operand list. -/
def readNumbers : List (List Char) → Option (List Nat)
  | [] => some []
  | t :: ts =>
    match readNumber (trimBlanks t), readNumbers ts with
    | some n, some ns => some (n :: ns)
    | _, _ => none

/-- The operands that follow a mnemonic, separated by commas (R49). -/
def readOperands (cs : List Char) : Option (List Nat) :=
  if cs.all isBlank then some [] else readNumbers (splitCommas [] cs)

/-- The form of a mnemonic with its operands (R49, R50). -/
def asmForm (mnemonic : List Char) (operands : List Nat) : Option AsmLine :=
  if mnemonic = "le7.dec2".toList then
    match operands with | [b0, b1] => some (.le7Dec2 b0 b1) | _ => none
  else if mnemonic = "le7.dec4".toList then
    match operands with | [b0, b1, b2, b3] => some (.le7Dec4 b0 b1 b2 b3) | _ => none
  else if mnemonic = "usb.recv".toList then
    match operands with | [p] => some (.usbRecv p) | _ => none
  else if mnemonic = "usb.avail".toList then
    match operands with | [] => some .usbAvail | _ => none
  else if mnemonic = "usb.read".toList then
    match operands with | [] => some .usbRead | _ => none
  else if mnemonic = "bs.push".toList then
    match operands with | [b] => some (.bsPush b) | _ => none
  else if mnemonic = "bs.pop".toList then
    match operands with | [] => some .bsPop | _ => none
  else if mnemonic = "bs.empty".toList then
    match operands with | [] => some .bsEmpty | _ => none
  else if mnemonic = "bs.reset".toList then
    match operands with | [] => some .bsReset | _ => none
  else if mnemonic = "bs.send".toList then
    match operands with | [] => none | bs => some (.bsSend bs)
  else if mnemonic = "bs.popn".toList then
    match operands with | [k] => some (.bsPopn k) | _ => none
  else none

/-- The command words of a line of text; a line with no command gives none (R49). -/
def assembleText (line : List Char) : Option (List CommandWord) :=
  let code := trimBlanks (line.takeWhile (· ≠ ';'))
  if code.isEmpty then some []
  else do
    let operands ← readOperands (code.dropWhile (!isBlank ·))
    let form ← asmForm (code.takeWhile (!isBlank ·)) operands
    assemble form

end Sys2Proof.Machine
end

