-- ==== Sys2Proof/Safety.lean ====
section
/-! DEFINITION. The terms the claims use: a core without a fault, the invariants of 10_state.md R22, what the host can
ever learn of a state (R23, R24), the units, and the drained translator of 95_test_vectors.md. -/

namespace Sys2Proof.Machine

/-- No contract violation is recorded (R17). -/
abbrev State.Live (s : State) : Prop := s.fltCode = 0

/-- The invariants of 10_state.md R22 that are not bounds of a type, and the legal values of R17 and R20. -/
structure State.Inv (s : State) : Prop where
  /-- (I1) -/
  sysexClearsStatus : s.trSxst ≠ .idle → s.trRs = .none ∧ s.trNd = 0
  /-- (I2) -/
  pendingNeedsTwo : s.trNd = 1 → ∃ st, s.trRs = some st ∧ need st = .two
  /-- (I3); `TR_SXCNT <= 5` is in its type. -/
  idleHoldsNone : s.trSxst = .idle → s.trSxcnt = 0
  /-- Legal values of `TR_RS`: 0x80..0xEF, 0xF1..0xF7. -/
  statusLegal : ∀ st, s.trRs = some st → 0x80 ≤ st ∧ st ≤ 0xF7 ∧ st ≠ 0xF0
  /-- Legal values of `TR_D1` while it is pending. -/
  pendingIsData : s.trNd = 1 → s.trD1 < 0x80
  /-- Legal values of the entries of `TR_SXBUF` below `TR_SXCNT`. -/
  heldAreData : ∀ b ∈ s.trSxbuf.toList.take s.trSxcnt.val, b < 0x80
  /-- Legal values of `FLT_CODE`. -/
  faultLegal : s.fltCode ≤ 3

/-- What any sequence of responses can depend on (R23, R24; 93_implementation_defined.md S1, S2, S3): the contents of the
FIFOs, not the slots; the pending data byte and the held sysex bytes, not the stale ones. -/
structure View where
  cfgGroup : Nibble
  cfgCable : Nibble
  fltCode : BitVec 3
  uxBytes : List Byte
  running : Option Byte
  pending : Option Byte
  sysex : SxState
  held : List Byte
  words : List Word
  resp : Option Response
  port : List HostEvent
deriving DecidableEq, Repr

/-- The view of a state. -/
def State.view (s : State) : View where
  cfgGroup := s.cfgGroup
  cfgCable := s.cfgCable
  fltCode := s.fltCode
  uxBytes := s.uxFifo.contents
  running := s.trRs
  pending := if s.trNd = 0 then .none else some s.trD1
  sysex := s.trSxst
  held := s.trSxbuf.toList.take s.trSxcnt.val
  words := s.trFifo.contents
  resp := s.resp
  port := s.port

/-- The units that have commands (00_scope.md R2, 30_encoding.md R44). -/
inductive CoreUnit where
  | le7
  | extractor
  | translator
deriving DecidableEq, Repr

/-- The unit a command word belongs to, by its `OP` (R44); `none` for an undefined `OP`. -/
def opUnit (op : Byte) : Option CoreUnit :=
  if op = 0x01 ∨ op = 0x02 then some .le7
  else if op = 0x10 ∨ op = 0x11 ∨ op = 0x12 then some .extractor
  else if op = 0x20 ∨ op = 0x21 ∨ op = 0x22 ∨ op = 0x23 then some .translator
  else none

/-- A command word is legal: its `OP` is one of the nine of R44, and the bits that `OP` reserves are 0 (R45). Written
from the opcode map, without the decoder. -/
def LegalCommand (op : Byte) (arg : Word) : Prop :=
  (op = 0x01 ∧ arg.extractLsb' 16 16 = 0) ∨ op = 0x02 ∨ op = 0x10 ∨ (op = 0x11 ∧ arg = 0) ∨ (op = 0x12 ∧ arg = 0) ∨
    (op = 0x20 ∧ arg.extractLsb' 8 24 = 0) ∨ (op = 0x21 ∧ arg = 0) ∨ (op = 0x22 ∧ arg = 0) ∨ (op = 0x23 ∧ arg = 0)

/-- `g` is `f` after the elements of `vs` have been pushed in order, none lost (20_memory.md R29, R32). -/
def Pushes {α : Type} {n : Nat} (f : Fifo α n) (vs : List α) (g : Fifo α n) : Prop :=
  f.pushAll vs = .ok g ∧ g.contents = f.contents ++ vs

/-! ### The drained translator (95_test_vectors.md, conventions)

The host pops every word after each `bs.push`, so capacity never matters and what remains of a push is what one byte
emits. -/

/-- For each byte of a stream, the byte and the words it emits. -/
def emissions (p : Config.Params) : State → List Byte → List (Byte × List Word)
  | _, [] => []
  | s, b :: bs => (b, (translateByte p b s).2) :: emissions p (translateByte p b s).1 bs

/-- The registers after a stream of bytes. -/
def feed (p : Config.Params) : State → List Byte → State
  | s, [] => s
  | s, b :: bs => feed p (translateByte p b s).1 bs

/-- The packets of a sysex message after its START packet, for the remaining data bytes (42_translator.md R90): full
CONTINUE packets, then one END packet with the rest. -/
def sysexRest (group : Nibble) : List Byte → List Word
  | b0 :: b1 :: b2 :: b3 :: b4 :: b5 :: rest =>
    sxPacket group sxContinue 6 [b0, b1, b2, b3, b4, b5] ++ sysexRest group rest
  | few => sxPacket group sxEnd few.length few

/-- The packets of a sysex message with these data bytes (R90). -/
def sysexPackets (p : Config.Params) (group : Nibble) : List Byte → List Word
  | b0 :: b1 :: b2 :: b3 :: b4 :: b5 :: rest =>
    sxPacket group sxStart 6 [b0, b1, b2, b3, b4, b5] ++ sysexRest group rest
  | few => sxPacket group p.sysexSingleStatus few.length few

/-! ### A host that drains after every command (70_reset_and_hazards.md R110, R111; 42_translator.md R92) -/

/-- `n` times `bs.pop`: the words returned, in order, and the state after; `none` if a command returns no word. -/
def popWords : Nat → State → Option (List Word × State)
  | 0, s => some ([], s)
  | n + 1, s =>
    match exec (.bsPop 0) s with
    | .next t =>
      match t.resp with
      | some (.val w) => (popWords n t).map fun r => (w :: r.1, r.2)
      | _ => none
    | _ => none

/-- For each byte, `bs.push` and then `bs.pop` until `TR_FIFO` is empty: all words popped, in order. -/
def pushDrained : List Byte → State → Option (List Word × State)
  | [], s => some ([], s)
  | b :: bs, s =>
    match exec (.bsPush (pushOperand b)) s with
    | .next t =>
      match popWords t.trFifo.size.val t with
      | some (ws, u) => (pushDrained bs u).map fun r => (ws ++ r.1, r.2)
      | none => none
    | _ => none

/-- `n` times `usb.read`: the bytes returned, in order, and the state after; `none` if a command returns no byte. -/
def readBytes : Nat → State → Option (List Byte × State)
  | 0, s => some ([], s)
  | n + 1, s =>
    match exec (.usbRead 0) s with
    | .next t =>
      match t.resp with
      | some (.val v) => (readBytes n t).map fun r => (v.setWidth 8 :: r.1, r.2)
      | _ => none
    | _ => none

/-- For each packet, `usb.recv` and then `usb.read` until `UX_FIFO` is empty: all bytes read, in order. -/
def recvDrained : List Word → State → Option (List Byte × State)
  | [], s => some ([], s)
  | p :: ps, s =>
    match exec (.usbRecv p) s with
    | .next t =>
      match readBytes t.uxFifo.size.val t with
      | some (bs, u) => (recvDrained ps u).map fun r => (bs ++ r.1, r.2)
      | none => none
    | _ => none

/-! ### A FIFO under a sequence of operations (20_memory.md R32) -/

/-- An operation on a FIFO. -/
inductive FifoOp (α : Type) where
  | push (v : α)
  | pop
deriving DecidableEq, Repr

/-- The values a sequence of operations pushes, in order. -/
def pushedValues {α : Type} : List (FifoOp α) → List α
  | [] => []
  | .push v :: ops => v :: pushedValues ops
  | .pop :: ops => pushedValues ops

/-- How many pops a sequence of operations makes. -/
def popCount {α : Type} : List (FifoOp α) → Nat
  | [] => 0
  | .push _ :: ops => popCount ops
  | .pop :: ops => popCount ops + 1

/-- Run a sequence of operations: the values popped, in order, and the FIFO left; or the first fault. -/
def runFifo {α : Type} {n : Nat} : Fifo α n → List (FifoOp α) → Except FaultCode (List α × Fifo α n)
  | f, [] => .ok ([], f)
  | f, .push v :: ops =>
    match f.push v with
    | .ok g => runFifo g ops
    | .error c => .error c
  | f, .pop :: ops =>
    match f.pop with
    | .ok (v, g) =>
      match runFifo g ops with
      | .ok (vs, h) => .ok (v :: vs, h)
      | .error c => .error c
    | .error c => .error c

end Sys2Proof.Machine
end

