-- ==== Sys2Proof/Certificates/Slice0/Obligations.lean ====
section
/-! DEFINITION. The statements for the provers. Each docstring names the rule it formalises. -/

open Sys2Proof Sys2Proof.Machine

/-! ### Reset and configuration -/

/-- R106: what a global reset leaves, from any state, and that the core then waits for a command. -/
def Obligations.GlobalResetLeavesResetValues : Prop :=
  ∀ (s : State) (group : Option Nibble) (cable : Nibble) (rest : List HostEvent),
    s.port = .reset group cable :: rest →
    ∃ t, step s = .next t ∧ t.cfgGroup = group.getD 0 ∧ t.cfgCable = cable ∧ t.fltCode = 0 ∧
      t.uxFifo.head = 0 ∧ t.uxFifo.size = 0 ∧ t.trRs = none ∧ t.trNd = 0 ∧ t.trSxst = .idle ∧ t.trSxcnt = 0 ∧
      t.trFifo.head = 0 ∧ t.trFifo.size = 0 ∧ t.port = rest ∧ (rest = [] → step t = .next t)

/-- R106, R98: as far as the host can see, global reset takes every state to the one reset state of its pin values.
That reset has no response and leaves the pending transactions is the model's choice (log 2, 3). -/
def Obligations.GlobalResetRestoresResetView : Prop :=
  ∀ (s : State) (group : Option Nibble) (cable : Nibble),
    (s.globalReset group cable).view = { (State.resetWith group cable).view with port := s.port }

/-- R15: the configuration registers are latched at reset; no command writes either, and they keep their value until the
next reset. -/
def Obligations.ConfigurationFixedUntilReset : Prop :=
  ∀ s t : State, step s = .next t →
    ((∀ group cable rest, s.port ≠ .reset group cable :: rest) →
      t.cfgGroup = s.cfgGroup ∧ t.cfgCable = s.cfgCable) ∧
    (∀ group cable rest, s.port = .reset group cable :: rest → t.cfgGroup = group.getD 0 ∧ t.cfgCable = cable)

/-- R16: construction from unbounded numbers refuses a value of 16 or more with `CONFIG_RANGE` and gives no state. -/
def Obligations.ConstructionChecksRange : Prop :=
  ∀ group cable : Nat,
    (group < 16 ∧ cable < 16 → ∃ g c : Nibble, g.toNat = group ∧ c.toNat = cable ∧
      construct group cable = .next (State.resetWith (some g) c)) ∧
    (16 ≤ group ∨ 16 ≤ cable → construct group cable = .fault .configRange ∧ Fault.configRange.code = .configRange ∧
      FaultCode.configRange.code = 4)

/-! ### The invariants -/

/-- R22 and the legal values of R17 and R20, at reset, for every value of the configuration inputs. -/
def Obligations.ResetSatisfiesInvariant : Prop :=
  ∀ (group : Option Nibble) (cable : Nibble), (State.resetWith group cable).Inv

/-- R22: every step keeps the invariants, from every state that has them: commands, illegal commands, faults, the faulted
state, and global reset. -/
def Obligations.StepKeepsInvariant : Prop :=
  ∀ s t : State, s.Inv → step s = .next t → t.Inv

/-! ### The port and the faults -/

/-- R7: a step at a command word performs exactly the instruction it decodes to, after taking the word off the port. -/
def Obligations.StepRunsDecodedInstruction : Prop :=
  ∀ (s : State) (w : CommandWord) (rest : List HostEvent) (i : Instr),
    s.port = .command w :: rest → decode (.cmd40 w) = .ok i → step s = exec i { s with port := rest }

/-- R105: with no command the core holds its state unchanged. That a step with nothing pending changes nothing is how
the model shows it (log 2). -/
def Obligations.StepWaitsUnchanged : Prop :=
  ∀ s : State, s.port = [] → step s = .next s

/-- No state stops the machine: every step answers a next state (R95, R96 make the core's faults responses). -/
def Obligations.StepAlwaysAnswersNext : Prop :=
  ∀ s : State, ∃ t, step s = .next t

/-- R8: every command returns exactly one response: `NONE` or `VAL` where no fault is recorded after it, and
`FAULTED(FLT_CODE)` where one is. -/
def Obligations.EveryCommandHasAResponse : Prop :=
  ∀ (s : State) (w : CommandWord) (rest : List HostEvent), s.port = .command w :: rest →
    ∃ t, step s = .next t ∧
      (t.fltCode = 0 → t.resp = some .none ∨ ∃ v, t.resp = some (.val v)) ∧
      (t.fltCode ≠ 0 → t.resp = some (.faulted t.fltCode))

/-- R95: fault entry is precise. -/
def Obligations.FaultEntryIsPrecise : Prop :=
  ∀ (s t : State) (w : CommandWord) (rest : List HostEvent),
    s.port = .command w :: rest → s.fltCode = 0 → step s = .next t → t.fltCode ≠ 0 →
    ∃ c : FaultCode, c ≠ .configRange ∧
      t = { s with port := rest, fltCode := c.code, resp := some (.faulted c.code) } ∧ t.faultOut = true

/-- R96: in the faulted state every command, legal or not, is ignored; only global reset leaves it. -/
def Obligations.FaultedStateIgnoresCommands : Prop :=
  ∀ s : State, s.fltCode ≠ 0 →
    (∀ w rest, s.port = .command w :: rest →
      step s = .next { s with port := rest, resp := some (.faulted s.fltCode) }) ∧
    (∀ i, exec i s = .next { s with resp := some (.faulted s.fltCode) }) ∧
    (∀ group cable rest, s.port = .reset group cable :: rest → ∃ t, step s = .next t ∧ t.fltCode = 0)

/-- R17: `FLT_CODE` holds the code of the first violation since reset: without a reset a step either leaves it, or writes
1, 2 or 3 over 0 with the response of that fault; reset clears it; the FAULT output shows whether it is 0. -/
def Obligations.FaultRegisterHoldsFirstViolation : Prop :=
  ∀ s t : State, step s = .next t →
    ((∀ group cable rest, s.port ≠ .reset group cable :: rest) → t.fltCode = s.fltCode ∨
      (s.fltCode = 0 ∧ (t.fltCode = 1 ∨ t.fltCode = 2 ∨ t.fltCode = 3) ∧ t.resp = some (.faulted t.fltCode))) ∧
    (∀ group cable rest, s.port = .reset group cable :: rest → t.fltCode = 0) ∧
    (t.faultOut = true ↔ t.fltCode ≠ 0) ∧ State.reset.fltCode = 0

/-- R45: a command word is illegal when its `OP` is undefined or a reserved bit is set; it raises `ILLEGAL_COMMAND` and
changes nothing else. -/
def Obligations.IllegalCommandsFault : Prop :=
  ∀ (s : State) (op : Byte) (arg : Word) (rest : List HostEvent),
    s.port = .command (commandWord op arg) :: rest → s.fltCode = 0 → ¬ LegalCommand op arg →
    step s = .next { s with port := rest, fltCode := 3, resp := some (.faulted 3) }

/-- R44, R45: the decoder accepts exactly the legal command words. -/
def Obligations.DecoderAcceptsLegalCommandsOnly : Prop :=
  ∀ (op : Byte) (arg : Word), (∃ i, decode (.cmd40 (commandWord op arg)) = .ok i) ↔ LegalCommand op arg

/-- R97: an instruction with a reserved bit set raises `ILLEGAL_COMMAND`, before its own precondition is looked at. -/
def Obligations.ReservedBitsFaultBeforePreconditions : Prop :=
  ∀ (i : Instr) (s : State), s.fltCode = 0 → ¬ i.WellFormed →
    exec i s = .next { s with fltCode := 3, resp := some (.faulted 3) }

/-! ### Encodings -/

/-- Every well-formed instruction is what its encoding decodes to, in all three formats (R43, R44, R52, R53). -/
def Obligations.DecodeOfEncodeIsIdentity : Prop :=
  ∀ i : Instr, i.WellFormed → decode (encode i) = .ok i

/-- What decodes has one encoding, and is well-formed: no bit of a word is dropped. -/
def Obligations.EncodeOfDecodeIsIdentity : Prop :=
  ∀ (e : Encoded) (i : Instr), decode e = .ok i → encode i = e ∧ i.WellFormed

/-- Some words of spec/95_test_vectors.md, written out from the encodings of R44, R52 and R53. -/
def Obligations.SpecWordsDecode : Prop :=
  decode (.cmd40 0x0100000100) = .ok (.le7Dec2 0x00000100) ∧
  decode (.cmd40 0x1009913C64) = .ok (.usbRecv 0x09913C64) ∧
  decode (.cmd40 0x2000000091) = .ok (.bsPush 0x91) ∧
  decode (.cmd40 0x2000000100) = .error (.reservedBits 0x20 0x100) ∧
  decode (.cmd40 0x2400000000) = .error (.unknownOp 0x24) ∧
  decode (.midi1Byte 0x91) = .ok (.midi1NoteOn 1) ∧
  decode (.midi1Byte 0x3C) = .ok (.midi1Data 0x3C) ∧
  decode (.midi1Byte 0xFE) = .ok .midi1RealtimeFE ∧
  decode (.usbMidiPacket 0x29903C64) = .ok (.usbCin9 2 0x90 0x3C 0x64) ∧
  decode (.usbMidiPacket 0x0CC50700) = .ok (.usbCinC 0 0xC5 0x07 0x00)

/-! ### LE7 -/

/-- R62: `le7.dec2`. -/
def Obligations.Le7Dec2Result : Prop :=
  ∀ (s : State) (arg : Word),
    (arg.extractLsb' 16 16 = 0 → decode (.cmd40 (commandWord 0x01 arg)) = .ok (.le7Dec2 arg)) ∧
    (s.fltCode ≠ 0 → exec (.le7Dec2 arg) s = .next s.faultedReply) ∧
    (s.fltCode = 0 → arg.extractLsb' 16 16 ≠ 0 → exec (.le7Dec2 arg) s = .next (s.raiseFault .illegalCommand)) ∧
    (s.fltCode = 0 → arg.extractLsb' 16 16 = 0 → ∃ v : Word,
      v = (arg.extractLsb' 0 7).setWidth 32 ||| (arg.extractLsb' 8 7).setWidth 32 <<< 7 ∧ v.toNat ≤ 0x3FFF ∧
      exec (.le7Dec2 arg) s = .next { s with resp := some (.val v) })

/-- R63: `le7.dec4`. -/
def Obligations.Le7Dec4Result : Prop :=
  ∀ (s : State) (arg : Word),
    decode (.cmd40 (commandWord 0x02 arg)) = .ok (.le7Dec4 arg) ∧
    (s.fltCode ≠ 0 → exec (.le7Dec4 arg) s = .next s.faultedReply) ∧
    (s.fltCode = 0 → ∃ v : Word,
      v = (arg.extractLsb' 0 7).setWidth 32 ||| (arg.extractLsb' 8 7).setWidth 32 <<< 7 |||
        (arg.extractLsb' 16 7).setWidth 32 <<< 14 ||| (arg.extractLsb' 24 7).setWidth 32 <<< 21 ∧
      v.toNat ≤ 0x0FFFFFFF ∧ exec (.le7Dec4 arg) s = .next { s with resp := some (.val v) })

/-- R59: `LE7Decode_N` is the sum of its seven-bit groups, for every `N`, and their bitwise OR, since they do not overlap;
the commands return it for their operand's bytes. -/
def Obligations.Le7IsSumOfGroups : Prop :=
  (∀ bytes : List Byte,
    le7Decode bytes = ∑ i : Fin bytes.length, (bytes[i] &&& 0x7F).toNat * 2 ^ (7 * i.val)) ∧
  (∀ bytes : List Byte, le7Decode bytes =
    (List.range bytes.length).foldr (fun i v => (bytes.getD i 0 &&& 0x7F).toNat <<< (7 * i) ||| v) 0) ∧
  (∀ (s : State) (arg : Word), s.fltCode = 0 → arg.extractLsb' 16 16 = 0 → ∃ v : Word,
    v.toNat = le7Decode [argByte arg 0, argByte arg 1] ∧
      exec (.le7Dec2 arg) s = .next { s with resp := some (.val v) }) ∧
  (∀ (s : State) (arg : Word), s.fltCode = 0 → ∃ v : Word,
    v.toNat = le7Decode [argByte arg 0, argByte arg 1, argByte arg 2, argByte arg 3] ∧
      exec (.le7Dec4 arg) s = .next { s with resp := some (.val v) })

/-- R60: the range of `LE7Decode_N` and of the commands' results; injective and onto over bytes 0x00..0x7F; not injective
over all bytes. -/
def Obligations.Le7IsInjectiveAndOnto : Prop :=
  (∀ bytes : List Byte, le7Decode bytes < 2 ^ (7 * bytes.length)) ∧
  (∀ (s t : State) (arg v : Word), s.fltCode = 0 → t.resp = some (.val v) →
    (exec (.le7Dec2 arg) s = .next t → v.extractLsb' 14 18 = 0 ∧ v.toNat = le7Decode [argByte arg 0, argByte arg 1]) ∧
    (exec (.le7Dec4 arg) s = .next t → v.extractLsb' 28 4 = 0 ∧
      v.toNat = le7Decode [argByte arg 0, argByte arg 1, argByte arg 2, argByte arg 3])) ∧
  (∀ xs ys : List Byte, xs.length = ys.length → (∀ b ∈ xs, b < 0x80) → (∀ b ∈ ys, b < 0x80) →
    le7Decode xs = le7Decode ys → xs = ys) ∧
  (∀ n v : Nat, v < 2 ^ (7 * n) →
    ∃ bytes : List Byte, bytes.length = n ∧ (∀ b ∈ bytes, b < 0x80) ∧ le7Decode bytes = v) ∧
  (∀ n : Nat, 1 ≤ n → ∃ xs ys : List Byte, xs.length = n ∧ ys.length = n ∧ xs ≠ ys ∧ le7Decode xs = le7Decode ys)

/-- R61: bit 7 of every input byte is ignored. -/
def Obligations.Le7IgnoresTopBits : Prop :=
  (∀ bytes : List Byte, le7Decode bytes = le7Decode (bytes.map (· &&& 0x7F))) ∧
  (∀ (s : State) (arg : Word), exec (.le7Dec2 arg) s = exec (.le7Dec2 (arg &&& 0xFFFF7F7F)) s ∧
    exec (.le7Dec4 arg) s = exec (.le7Dec4 (arg &&& 0x7F7F7F7F)) s)

/-! ### The extractor -/

/-- R64, R65: `usb.recv`, with the CIN table written out. -/
def Obligations.UsbRecvResult : Prop :=
  ∀ (s : State) (p : Word) (bytes : List Byte),
    bytes = [p.extractLsb' 16 8, p.extractLsb' 8 8, p.extractLsb' 0 8].take
      (([0, 0, 2, 3, 3, 1, 2, 3, 3, 3, 3, 3, 2, 2, 3, 1] : List Nat).getD (p.extractLsb' 24 4).toNat 0) →
    decode (.cmd40 (commandWord 0x10 p)) = .ok (.usbRecv p) ∧
    (s.fltCode ≠ 0 → exec (.usbRecv p) s = .next s.faultedReply) ∧
    (s.fltCode = 0 → p.extractLsb' 28 4 ≠ s.cfgCable →
      exec (.usbRecv p) s = .next { s with resp := some .none }) ∧
    (s.fltCode = 0 → p.extractLsb' 28 4 = s.cfgCable → s.uxFifo.size.val + bytes.length ≤ 4 →
      ∃ f, Pushes s.uxFifo bytes f ∧ exec (.usbRecv p) s = .next { s with uxFifo := f, resp := some .none }) ∧
    (s.fltCode = 0 → p.extractLsb' 28 4 = s.cfgCable → 4 < s.uxFifo.size.val + bytes.length →
      exec (.usbRecv p) s = .next (s.raiseFault .fifoOverflow))

/-- R64, R65: `usb.recv` of a packet of each CIN pushes the payload bytes the CIN carries. -/
def Obligations.CinRowsPushTheirBytes : Prop :=
  ∀ (s : State) (cn : Nibble) (p0 p1 p2 : Byte), s.fltCode = 0 →
    ∀ row ∈ [ (Instr.usbCin0 cn p0 p1 p2, ([] : List Byte)), (.usbCin1 cn p0 p1 p2, []),
        (.usbCin2 cn p0 p1 p2, [p0, p1]), (.usbCin3 cn p0 p1 p2, [p0, p1, p2]),
        (.usbCin4 cn p0 p1 p2, [p0, p1, p2]), (.usbCin5 cn p0 p1 p2, [p0]),
        (.usbCin6 cn p0 p1 p2, [p0, p1]), (.usbCin7 cn p0 p1 p2, [p0, p1, p2]),
        (.usbCin8 cn p0 p1 p2, [p0, p1, p2]), (.usbCin9 cn p0 p1 p2, [p0, p1, p2]),
        (.usbCinA cn p0 p1 p2, [p0, p1, p2]), (.usbCinB cn p0 p1 p2, [p0, p1, p2]),
        (.usbCinC cn p0 p1 p2, [p0, p1]), (.usbCinD cn p0 p1 p2, [p0, p1]),
        (.usbCinE cn p0 p1 p2, [p0, p1, p2]), (.usbCinF cn p0 p1 p2, [p0]) ],
      (cn ≠ s.cfgCable → exec row.1 s = .next { s with resp := some .none }) ∧
      (cn = s.cfgCable → s.uxFifo.size.val + row.2.length ≤ 4 →
        ∃ f, Pushes s.uxFifo row.2 f ∧ exec row.1 s = .next { s with uxFifo := f, resp := some .none }) ∧
      (cn = s.cfgCable → 4 < s.uxFifo.size.val + row.2.length →
        exec row.1 s = .next (s.raiseFault .fifoOverflow))

/-- R52, R64: a packet given to `usb.recv` does what its CIN's row does. That the row stands for that command is the
model's reading of the table (log 1). -/
def Obligations.UsbRecvIsItsCinRow : Prop :=
  ∀ (s : State) (p : Word), exec (.usbRecv p) s = exec (decodePacket p) s

/-- R66: `usb.avail`. -/
def Obligations.UsbAvailResult : Prop :=
  ∀ (s : State) (arg : Word),
    (arg = 0 → decode (.cmd40 (commandWord 0x11 arg)) = .ok (.usbAvail arg)) ∧
    (s.fltCode ≠ 0 → exec (.usbAvail arg) s = .next s.faultedReply) ∧
    (s.fltCode = 0 → arg ≠ 0 → exec (.usbAvail arg) s = .next (s.raiseFault .illegalCommand)) ∧
    (s.fltCode = 0 → arg = 0 → exec (.usbAvail arg) s =
      .next { s with resp := some (.val (if s.uxFifo.contents = [] then 0 else 1)) })

/-- R67: `usb.read`. -/
def Obligations.UsbReadResult : Prop :=
  ∀ (s : State) (arg : Word),
    (arg = 0 → decode (.cmd40 (commandWord 0x12 arg)) = .ok (.usbRead arg)) ∧
    (s.fltCode ≠ 0 → exec (.usbRead arg) s = .next s.faultedReply) ∧
    (s.fltCode = 0 → arg ≠ 0 → exec (.usbRead arg) s = .next (s.raiseFault .illegalCommand)) ∧
    (s.fltCode = 0 → arg = 0 → s.uxFifo.size = 0 → exec (.usbRead arg) s = .next (s.raiseFault .fifoUnderflow)) ∧
    (s.fltCode = 0 → arg = 0 → s.uxFifo.size ≠ 0 → ∃ b f, s.uxFifo.pop = .ok (b, f) ∧
      s.uxFifo.contents = b :: f.contents ∧
      exec (.usbRead arg) s = .next { s with uxFifo := f, resp := some (.val (b.setWidth 32)) })

/-- R69, R111: one `usb.recv` pushes at most three bytes; a host that keeps `UX_SIZE <= 1` before each `usb.recv` never
sees it fault. -/
def Obligations.DrainedExtractorNeverOverflows : Prop :=
  (∀ (s t : State) (p : Word), exec (.usbRecv p) s = .next t → t.uxFifo.size.val ≤ s.uxFifo.size.val + 3) ∧
  (∀ (s : State) (p : Word), s.fltCode = 0 → s.uxFifo.size.val ≤ 1 →
    ∃ t, exec (.usbRecv p) s = .next t ∧ t.fltCode = 0 ∧ t.resp = some .none)

/-- R68, R92: what a draining host reads is the concatenation, in packet order, of the bytes that the CIN of each packet of
the configured cable carries; nothing faults and the FIFO is left empty. -/
def Obligations.ExtractorOutputIsConcatenation : Prop :=
  ∀ (packets : List Word) (s : State), s.fltCode = 0 → s.uxFifo.size.val = 0 →
    ∃ t, recvDrained packets s = some ((packets.filter (packetCable · = s.cfgCable)).flatMap
        (fun p => (packetPayload p).take (cinCount (packetCin p))), t) ∧
      t.fltCode = 0 ∧ t.uxFifo.size.val = 0 ∧ t.cfgCable = s.cfgCable

/-! ### The translator: formats and branches -/

/-- R54, R55, R56, R71: the fields of the words the core builds, and the values R6 and R56 give the two named parameters
and the sysex statuses (unaudited: log 7). The message type of a status below 0x80 or of 0xF0, which R71 does not give, is
the model's choice (log 13). -/
def Obligations.UmpWordLayouts : Prop :=
  (∀ (g : Nibble) (s a c : Byte),
    (word1 params g s a c).extractLsb' 28 4 = (if s < 0xF0 then 0x2 else params.mtSystem) ∧
    (word1 params g s a c).extractLsb' 24 4 = g ∧ (word1 params g s a c).extractLsb' 16 8 = s ∧
    (word1 params g s a c).extractLsb' 8 8 = a ∧ (word1 params g s a c).extractLsb' 0 8 = c) ∧
  (∀ (g st : Nibble) (held : List Byte), held.length ≤ 6 →
    ∃ w0 w1 : Word, sxPacket g st held.length held = [w0, w1] ∧
      w0.extractLsb' 28 4 = 0x3 ∧ w0.extractLsb' 24 4 = g ∧ w0.extractLsb' 20 4 = st ∧
      (w0.extractLsb' 16 4).toNat = held.length ∧
      w0.extractLsb' 8 8 = held.getD 0 0 ∧ w0.extractLsb' 0 8 = held.getD 1 0 ∧
      w1.extractLsb' 24 8 = held.getD 2 0 ∧ w1.extractLsb' 16 8 = held.getD 3 0 ∧
      w1.extractLsb' 8 8 = held.getD 4 0 ∧ w1.extractLsb' 0 8 = held.getD 5 0) ∧
  params.mtSystem = 0x2 ∧ params.sysexSingleStatus = 0x0 ∧
  sxComplete = 0x0 ∧ sxStart = 0x1 ∧ sxContinue = 0x2 ∧ sxEnd = 0x3

/-- R76: byte 0xF0 starts a sysex message, in any state; it emits nothing, even into a full `TR_FIFO`. -/
def Obligations.SysexStartResult : Prop :=
  ∀ s : State, s.fltCode = 0 →
    ∀ i ∈ [Instr.midi1SysexStart, .bsPush 0xF0], exec i s =
      .next { s with trSxst := .started, trSxcnt := 0, trRs := none, trNd := 0, resp := some .none }

/-- R77: byte 0xF7 while a sysex message is active. -/
def Obligations.SysexEndResult : Prop :=
  ∀ (s : State) (words : List Word), s.fltCode = 0 → s.trSxst ≠ .idle →
    words = sxPacket s.cfgGroup (if s.trSxst = .started then params.sysexSingleStatus else 0x3) s.trSxcnt.val
      s.trSxbuf.toList →
    ∀ i ∈ [Instr.midi1SysexEnd, .bsPush 0xF7],
      (s.trFifo.size.val ≤ 2 → ∃ f, Pushes s.trFifo words f ∧ exec i s =
        .next { s with trSxst := .idle, trSxcnt := 0, trFifo := f, resp := some .none }) ∧
      (2 < s.trFifo.size.val → exec i s = .next (s.raiseFault .fifoOverflow))

/-- R78, R79: a realtime byte is emitted at once and changes no register of the translator. -/
def Obligations.RealtimeResult : Prop :=
  ∀ s : State, s.fltCode = 0 →
    ∀ row ∈ [ (Instr.midi1RealtimeF8, (0xF8 : Byte)), (.midi1RealtimeF9, 0xF9), (.midi1RealtimeFA, 0xFA),
        (.midi1RealtimeFB, 0xFB), (.midi1RealtimeFC, 0xFC), (.midi1RealtimeFD, 0xFD), (.midi1RealtimeFE, 0xFE),
        (.midi1RealtimeFF, 0xFF) ],
      (s.trFifo.size.val ≤ 3 → ∃ f, Pushes s.trFifo [params.mtSystem ++ s.cfgGroup ++ row.2 ++ 0#8 ++ 0#8] f ∧
        exec row.1 s = .next { s with trFifo := f, resp := some .none }) ∧
      (s.trFifo.size.val = 4 → exec row.1 s = .next (s.raiseFault .fifoOverflow))

/-- R80, R81: any other status byte with a nonzero or reserved count becomes the running status, drops a pending data
byte, aborts an active sysex message without a packet, and emits nothing, even into a full `TR_FIFO`. 0xF7 is such a
byte only while no sysex message is active. -/
def Obligations.StatusByteResult : Prop :=
  ∀ (s : State) (n : Nibble), s.fltCode = 0 →
    (∀ row ∈ [ (Instr.midi1NoteOff n, statusByteOf 0x8 n), (.midi1NoteOn n, statusByteOf 0x9 n),
        (.midi1PolyPressure n, statusByteOf 0xA n), (.midi1ControlChange n, statusByteOf 0xB n),
        (.midi1ProgramChange n, statusByteOf 0xC n), (.midi1ChannelPressure n, statusByteOf 0xD n),
        (.midi1PitchBend n, statusByteOf 0xE n), (.midi1SystemCommonF1, 0xF1),
        (.midi1SystemCommonF2, 0xF2), (.midi1SystemCommonF3, 0xF3), (.midi1ReservedF4, 0xF4),
        (.midi1ReservedF5, 0xF5) ],
      exec row.1 s =
        .next { s with trSxst := .idle, trSxcnt := 0, trRs := some row.2, trNd := 0, resp := some .none }) ∧
    (s.trSxst = .idle → exec .midi1SysexEnd s =
      .next { s with trSxst := .idle, trSxcnt := 0, trRs := some 0xF7, trNd := 0, resp := some .none })

/-- R82: tune-request is emitted when its status byte arrives, and becomes the running status. -/
def Obligations.TuneRequestResult : Prop :=
  ∀ s : State, s.fltCode = 0 →
    (s.trFifo.size.val ≤ 3 → ∃ f, Pushes s.trFifo [params.mtSystem ++ s.cfgGroup ++ 0xF6#8 ++ 0#8 ++ 0#8] f ∧
      exec .midi1TuneRequest s =
        .next { s with trSxst := .idle, trSxcnt := 0, trRs := some 0xF6, trNd := 0, trFifo := f, resp := some .none }) ∧
    (s.trFifo.size.val = 4 → exec .midi1TuneRequest s = .next (s.raiseFault .fifoOverflow))

/-- R84: a data byte while a sysex message is active; the sixth byte flushes. -/
def Obligations.SysexDataResult : Prop :=
  ∀ (s : State) (d : BitVec 7), s.fltCode = 0 → s.trSxst ≠ .idle →
    (∀ h : s.trSxcnt.val + 1 < 6, exec (.midi1Data d) s =
      .next { s with
        trSxbuf := s.trSxbuf.set s.trSxcnt.val (dataByteOf d), trSxcnt := ⟨s.trSxcnt.val + 1, h⟩, resp := some .none }) ∧
    (s.trSxcnt.val = 5 → s.trFifo.size.val ≤ 2 → ∃ f,
      Pushes s.trFifo (sxPacket s.cfgGroup (if s.trSxst = .started then 0x1 else 0x2) 6
        (s.trSxbuf.set s.trSxcnt.val (dataByteOf d)).toList) f ∧
      exec (.midi1Data d) s =
        .next { s with
          trSxbuf := s.trSxbuf.set s.trSxcnt.val (dataByteOf d), trSxst := .continuing, trSxcnt := 0, trFifo := f,
          resp := some .none }) ∧
    (s.trSxcnt.val = 5 → 2 < s.trFifo.size.val → exec (.midi1Data d) s = .next (s.raiseFault .fifoOverflow))

/-- R70, R85: a data byte while no sysex message is active, by the running status and its count. -/
def Obligations.RunningDataResult : Prop :=
  ∀ (s : State) (d : BitVec 7), s.fltCode = 0 → s.trSxst = .idle →
    (s.trRs = none → exec (.midi1Data d) s = .next { s with resp := some .none }) ∧
    (∀ st, s.trRs = some st →
      (st ∈ [(0xF4 : Byte), 0xF5, 0xF6, 0xF7] → exec (.midi1Data d) s = .next { s with resp := some .none }) ∧
      ((0xC0 ≤ st ∧ st ≤ 0xDF) ∨ st = 0xF1 ∨ st = 0xF3 →
        (s.trFifo.size.val ≤ 3 → ∃ f, Pushes s.trFifo [word1 params s.cfgGroup st (dataByteOf d) 0] f ∧
          exec (.midi1Data d) s = .next { s with trFifo := f, resp := some .none }) ∧
        (s.trFifo.size.val = 4 → exec (.midi1Data d) s = .next (s.raiseFault .fifoOverflow))) ∧
      ((0x80 ≤ st ∧ st ≤ 0xBF) ∨ (0xE0 ≤ st ∧ st ≤ 0xEF) ∨ st = 0xF2 →
        (s.trNd = 0 → exec (.midi1Data d) s =
          .next { s with trD1 := dataByteOf d, trNd := 1, resp := some .none }) ∧
        (s.trNd = 1 → s.trFifo.size.val ≤ 3 →
          ∃ f, Pushes s.trFifo [word1 params s.cfgGroup st s.trD1 (dataByteOf d)] f ∧
            exec (.midi1Data d) s = .next { s with trNd := 0, trFifo := f, resp := some .none }) ∧
        (s.trNd = 1 → s.trFifo.size.val = 4 → exec (.midi1Data d) s = .next (s.raiseFault .fifoOverflow))))

/-- R75: `bs.push` is all-or-nothing: the words of the byte and the registers it writes, or the fault and neither. A byte
that emits nothing never faults for capacity. -/
def Obligations.BsPushIsAllOrNothing : Prop :=
  ∀ (s : State) (b : Byte) (r : Translated), s.fltCode = 0 → r = translateByte params b s →
    r.2.length ≤ 2 ∧
    (s.trFifo.size.val + r.2.length ≤ 4 → ∃ f, Pushes s.trFifo r.2 f ∧
      exec (.bsPush (pushOperand b)) s = .next { r.1 with trFifo := f, resp := some .none }) ∧
    (4 < s.trFifo.size.val + r.2.length → exec (.bsPush (pushOperand b)) s = .next (s.raiseFault .fifoOverflow)) ∧
    (r.2 = [] → exec (.bsPush (pushOperand b)) s = .next { r.1 with resp := some .none })

/-- R53, R74: a byte given to `bs.push` does what its class's row does. That the row stands for that command is the
model's reading of the table (log 1). -/
def Obligations.BsPushIsItsByteClass : Prop :=
  ∀ (s : State) (b : Byte), exec (.bsPush (pushOperand b)) s = exec (decodeByte b) s

/-- R89, R110: a byte emits at most two words, two only as a sysex7 packet while a sysex message is active; so a host
that keeps `TR_OSIZE <= 2` before each `bs.push` never sees it fault. -/
def Obligations.DrainedTranslatorNeverOverflows : Prop :=
  (∀ (p : Config.Params) (b : Byte) (s : State), (translateByte p b s).2.length ≤ 2 ∧
    ((translateByte p b s).2.length = 2 → s.trSxst ≠ .idle ∧ (b = 0xF7 ∨ b < 0x80) ∧
      ∃ st n buf, (translateByte p b s).2 = sxPacket s.cfgGroup st n buf)) ∧
  (∀ (s : State) (b : Byte), s.fltCode = 0 → s.trFifo.size.val ≤ 2 →
    ∃ t, exec (.bsPush (pushOperand b)) s = .next t ∧ t.fltCode = 0 ∧ t.resp = some .none)

/-- R92, R89: a host that pops every word after each `bs.push` gets exactly the words the bytes emit, in production order,
with no fault, for every byte stream; the registers are those the bytes leave. The statements about `emissions` reach a
run of the commands through this one. -/
def Obligations.DrainedHostPopsTheEmissions : Prop :=
  ∀ (bytes : List Byte) (s : State), s.fltCode = 0 → s.trFifo.size.val = 0 →
    ∃ t, pushDrained bytes s = some ((emissions params s bytes).flatMap (·.2), t) ∧
      t.fltCode = 0 ∧ t.trFifo.size.val = 0 ∧ t.trRs = (feed params s bytes).trRs ∧ t.trNd = (feed params s bytes).trNd ∧
      t.trSxst = (feed params s bytes).trSxst ∧ t.trSxcnt = (feed params s bytes).trSxcnt

/-- R86: `bs.pop`. -/
def Obligations.BsPopResult : Prop :=
  ∀ (s : State) (arg : Word),
    (arg = 0 → decode (.cmd40 (commandWord 0x21 arg)) = .ok (.bsPop arg)) ∧
    (s.fltCode ≠ 0 → exec (.bsPop arg) s = .next s.faultedReply) ∧
    (s.fltCode = 0 → arg ≠ 0 → exec (.bsPop arg) s = .next (s.raiseFault .illegalCommand)) ∧
    (s.fltCode = 0 → arg = 0 → s.trFifo.size = 0 → exec (.bsPop arg) s = .next (s.raiseFault .fifoUnderflow)) ∧
    (s.fltCode = 0 → arg = 0 → s.trFifo.size ≠ 0 → ∃ w f, s.trFifo.pop = .ok (w, f) ∧
      s.trFifo.contents = w :: f.contents ∧
      exec (.bsPop arg) s = .next { s with trFifo := f, resp := some (.val w) })

/-- R87: `bs.empty`. -/
def Obligations.BsEmptyResult : Prop :=
  ∀ (s : State) (arg : Word),
    (arg = 0 → decode (.cmd40 (commandWord 0x22 arg)) = .ok (.bsEmpty arg)) ∧
    (s.fltCode ≠ 0 → exec (.bsEmpty arg) s = .next s.faultedReply) ∧
    (s.fltCode = 0 → arg ≠ 0 → exec (.bsEmpty arg) s = .next (s.raiseFault .illegalCommand)) ∧
    (s.fltCode = 0 → arg = 0 → exec (.bsEmpty arg) s =
      .next { s with resp := some (.val (if s.trFifo.contents = [] then 1 else 0)) })

/-- R88, R107: `bs.reset` clears the translator, and writes neither the configuration, the extractor, `FLT_CODE`, `TR_D1`
nor the slots. -/
def Obligations.BsResetResult : Prop :=
  ∀ (s : State) (arg : Word),
    (arg = 0 → decode (.cmd40 (commandWord 0x23 arg)) = .ok (.bsReset arg)) ∧
    (s.fltCode ≠ 0 → exec (.bsReset arg) s = .next s.faultedReply) ∧
    (s.fltCode = 0 → arg ≠ 0 → exec (.bsReset arg) s = .next (s.raiseFault .illegalCommand)) ∧
    (s.fltCode = 0 → arg = 0 → exec (.bsReset arg) s =
      .next { s with
        trRs := none, trNd := 0, trSxst := .idle, trSxcnt := 0,
        trFifo := { buf := s.trFifo.buf, head := 0, size := 0 }, resp := some .none })

/-! ### The FIFO component -/

/-- R26, R29: `FifoPush` writes the slot `(HEAD + SIZE) mod N` and no other, and faults when the FIFO is full. -/
def Obligations.FifoPushResult : Prop :=
  ∀ (n : Nat) (f : Fifo Word n) (v : Word),
    (f.size.val = n → f.push v = .error .fifoOverflow) ∧
    (f.size.val ≠ n → ∃ g, f.push v = .ok g ∧ g.size.val = f.size.val + 1 ∧ g.head = f.head ∧
      (∀ i : Fin n, g.buf[i] = if i.val = (f.head.val + f.size.val) % n then v else f.buf[i]))

/-- R30, R31: `FifoPop` returns the slot at `HEAD` and moves on, faulting when the FIFO is empty; `FifoClear` writes
`HEAD` and `SIZE` only. -/
def Obligations.FifoPopAndClearResult : Prop :=
  ∀ (n : Nat) (f : Fifo Word n),
    (f.size.val = 0 → f.pop = .error .fifoUnderflow) ∧
    (f.size.val ≠ 0 → ∃ g, f.pop = .ok (f.buf[f.head], g) ∧ g.buf = f.buf ∧
      g.head.val = (f.head.val + 1) % n ∧ g.size.val + 1 = f.size.val) ∧
    f.clear.buf = f.buf ∧ f.clear.head.val = 0 ∧ f.clear.size.val = 0

/-- R32: elements leave a FIFO in the order they entered, over every sequence of pushes and pops with no fault. -/
def Obligations.FifoKeepsOrder : Prop :=
  ∀ (n : Nat) (f g : Fifo Word n) (ops : List (FifoOp Word)) (popped : List Word),
    f.contents = [] → runFifo f ops = .ok (popped, g) →
    popped <+: pushedValues ops ∧ popped ++ g.contents = pushedValues ops ∧ popped.length = popCount ops ∧
      g.size.val + popCount ops = (pushedValues ops).length

/-! ### Whole-machine rules -/

/-- R24: no response depends on a slot that is not held, on a stale register, or on where a FIFO's elements lie: two states
the host cannot tell apart step to two states it cannot tell apart, with the same response. -/
def Obligations.StaleStorageIsNeverObserved : Prop :=
  ∀ s t : State, s.view = t.view →
    ∃ s' t', step s = .next s' ∧ step t = .next t' ∧ s'.view = t'.view

/-- R3: the units are not connected. A translator or LE7 command neither reads nor writes the extractor's state; an
extractor or LE7 command neither reads nor writes the translator's. -/
def Obligations.UnitsAreIndependent : Prop :=
  ∀ (s t : State) (op : Byte) (arg : Word) (rest : List HostEvent),
    s.port = .command (commandWord op arg) :: rest → step s = .next t →
    (opUnit op = some .translator ∨ opUnit op = some .le7 → ∀ f c,
      step { s with uxFifo := f, cfgCable := c } = .next { t with uxFifo := f, cfgCable := c }) ∧
    (opUnit op = some .extractor ∨ opUnit op = some .le7 → ∀ g rs d1 nd st cnt buf f,
      step { s with
        cfgGroup := g, trRs := rs, trD1 := d1, trNd := nd, trSxst := st, trSxcnt := cnt, trSxbuf := buf, trFifo := f } =
      .next { t with
        cfgGroup := g, trRs := rs, trD1 := d1, trNd := nd, trSxst := st, trSxcnt := cnt, trSxbuf := buf, trFifo := f })

/-- R37: the four queries are idempotent and, where no fault is recorded after them, change nothing but the response. -/
def Obligations.QueriesAreIdempotent : Prop :=
  ∀ (s t : State) (arg : Word),
    ∀ i ∈ [Instr.usbAvail arg, .bsEmpty arg, .le7Dec2 arg, .le7Dec4 arg], exec i s = .next t →
      exec i t = .next t ∧ (t.fltCode = 0 → t = { s with resp := t.resp })

/-- R90: the packets of one sysex message, for any number of data bytes and with realtime bytes anywhere among them. The
realtime words come out where their bytes arrive. -/
def Obligations.SysexMessageFraming : Prop :=
  ∀ (p : Config.Params) (s : State) (stream : List Byte), (∀ b ∈ stream, b < 0x80 ∨ 0xF8 ≤ b) →
    ((emissions p s (0xF0 :: stream ++ [0xF7])).filter (fun e => e.1 < 0xF8)).flatMap (·.2) =
      sysexPackets p s.cfgGroup (stream.filter (· < 0x80)) ∧
    ∀ e ∈ emissions p s (0xF0 :: stream ++ [0xF7]), 0xF8 ≤ e.1 → e.2 = [word1 p s.cfgGroup e.1 0 0]

/-- R79: realtime bytes are transparent: without them a stream leaves the same registers and, for its other bytes, the
same words. -/
def Obligations.RealtimeBytesAreTransparent : Prop :=
  ∀ (p : Config.Params) (s : State) (stream : List Byte),
    feed p s stream = feed p s (stream.filter (· < 0xF8)) ∧
    (emissions p s stream).filter (fun e => e.1 < 0xF8) = emissions p s (stream.filter (· < 0xF8))

/-- R85: running status. After a status of count 2, every further pair of data bytes emits one word with that status;
after a status of count 1, every further data byte does. -/
def Obligations.RunningStatusRepeats : Prop :=
  ∀ (p : Config.Params) (s : State) (st : Byte), 0x80 ≤ st → st < 0xF7 →
    (∀ pairs : List (Byte × Byte), need st = .two → (∀ q ∈ pairs, q.1 < 0x80 ∧ q.2 < 0x80) →
      (emissions p s (st :: pairs.flatMap fun q => [q.1, q.2])).flatMap (·.2) =
        pairs.map fun q => word1 p s.cfgGroup st q.1 q.2) ∧
    (∀ ds : List Byte, need st = .one → (∀ d ∈ ds, d < 0x80) →
      (emissions p s (st :: ds)).flatMap (·.2) = ds.map fun d => word1 p s.cfgGroup st d 0)

/-- R91, R88: after `bs.reset` nothing of the past leaks: what any byte stream emits depends on the group alone. -/
def Obligations.ResetTranslatorForgetsThePast : Prop :=
  ∀ (p : Config.Params) (s t : State) (stream : List Byte), s.cfgGroup = t.cfgGroup →
    emissions p s.clearTranslator stream = emissions p t.clearTranslator stream

/-! ### Assembly -/

/-- R49: every line the assembler accepts is a sequence of legal commands. -/
def Obligations.AssembledWordsAreLegal : Prop :=
  ∀ (line : AsmLine) (words : List CommandWord), assemble line = some words →
    words ≠ [] ∧ ∀ w ∈ words, ∃ i, decode (.cmd40 w) = .ok i ∧ i.WellFormed

/-- R50: the two pseudo-instructions. -/
def Obligations.PseudoInstructionsExpand : Prop :=
  (∀ bytes : List Byte, bytes ≠ [] → assemble (.bsSend (bytes.map (·.toNat))) =
    some (bytes.map fun b => commandWord 0x20 (pushOperand b))) ∧
  (∀ k : Nat, 1 ≤ k → assemble (.bsPopn k) = some (List.replicate k 0x2100000000))
end

