-- ==== Sys2Proof/Laws/Arms.lean ====
section
/-! SUPPORT. Each instruction as a command: what `exec` hands to `runCommand`. -/

namespace Sys2Proof.Machine

variable (s : State)

theorem exec_le7Dec2 (arg : Word) :
    exec (.le7Dec2 arg) s =
      runCommand s (if arg.extractLsb' 16 16 ≠ 0 then .error .illegalCommand else .ok (s.reply (.val (le7Value2 arg)))) := rfl
theorem exec_le7Dec4 (arg : Word) :
    exec (.le7Dec4 arg) s =
      runCommand s (.ok (s.reply (.val (le7Value4 arg)))) := rfl
theorem exec_usbRecv (arg : Word) :
    exec (.usbRecv arg) s =
      runCommand s (receive (packetCable arg) ((packetPayload arg).take (cinCount (packetCin arg))) s) := rfl
theorem exec_usbAvail (arg : Word) :
    exec (.usbAvail arg) s =
      runCommand s (if arg ≠ 0 then .error .illegalCommand else .ok (s.reply (.val (boolValue s.uxAvailable)))) := rfl
theorem exec_usbRead (arg : Word) :
    exec (.usbRead arg) s =
      runCommand s (if arg ≠ 0 then .error .illegalCommand else readByte s) := rfl
theorem exec_usbCin0 (cn : Nibble) (p0 p1 p2 : Byte) :
    exec (.usbCin0 cn p0 p1 p2) s =
      runCommand s (receive cn [] s) := rfl
theorem exec_usbCin1 (cn : Nibble) (p0 p1 p2 : Byte) :
    exec (.usbCin1 cn p0 p1 p2) s =
      runCommand s (receive cn [] s) := rfl
theorem exec_usbCin2 (cn : Nibble) (p0 p1 p2 : Byte) :
    exec (.usbCin2 cn p0 p1 p2) s =
      runCommand s (receive cn [p0, p1] s) := rfl
theorem exec_usbCin3 (cn : Nibble) (p0 p1 p2 : Byte) :
    exec (.usbCin3 cn p0 p1 p2) s =
      runCommand s (receive cn [p0, p1, p2] s) := rfl
theorem exec_usbCin4 (cn : Nibble) (p0 p1 p2 : Byte) :
    exec (.usbCin4 cn p0 p1 p2) s =
      runCommand s (receive cn [p0, p1, p2] s) := rfl
theorem exec_usbCin5 (cn : Nibble) (p0 p1 p2 : Byte) :
    exec (.usbCin5 cn p0 p1 p2) s =
      runCommand s (receive cn [p0] s) := rfl
theorem exec_usbCin6 (cn : Nibble) (p0 p1 p2 : Byte) :
    exec (.usbCin6 cn p0 p1 p2) s =
      runCommand s (receive cn [p0, p1] s) := rfl
theorem exec_usbCin7 (cn : Nibble) (p0 p1 p2 : Byte) :
    exec (.usbCin7 cn p0 p1 p2) s =
      runCommand s (receive cn [p0, p1, p2] s) := rfl
theorem exec_usbCin8 (cn : Nibble) (p0 p1 p2 : Byte) :
    exec (.usbCin8 cn p0 p1 p2) s =
      runCommand s (receive cn [p0, p1, p2] s) := rfl
theorem exec_usbCin9 (cn : Nibble) (p0 p1 p2 : Byte) :
    exec (.usbCin9 cn p0 p1 p2) s =
      runCommand s (receive cn [p0, p1, p2] s) := rfl
theorem exec_usbCinA (cn : Nibble) (p0 p1 p2 : Byte) :
    exec (.usbCinA cn p0 p1 p2) s =
      runCommand s (receive cn [p0, p1, p2] s) := rfl
theorem exec_usbCinB (cn : Nibble) (p0 p1 p2 : Byte) :
    exec (.usbCinB cn p0 p1 p2) s =
      runCommand s (receive cn [p0, p1, p2] s) := rfl
theorem exec_usbCinC (cn : Nibble) (p0 p1 p2 : Byte) :
    exec (.usbCinC cn p0 p1 p2) s =
      runCommand s (receive cn [p0, p1] s) := rfl
theorem exec_usbCinD (cn : Nibble) (p0 p1 p2 : Byte) :
    exec (.usbCinD cn p0 p1 p2) s =
      runCommand s (receive cn [p0, p1] s) := rfl
theorem exec_usbCinE (cn : Nibble) (p0 p1 p2 : Byte) :
    exec (.usbCinE cn p0 p1 p2) s =
      runCommand s (receive cn [p0, p1, p2] s) := rfl
theorem exec_usbCinF (cn : Nibble) (p0 p1 p2 : Byte) :
    exec (.usbCinF cn p0 p1 p2) s =
      runCommand s (receive cn [p0] s) := rfl
theorem exec_bsPush (arg : Word) :
    exec (.bsPush arg) s =
      runCommand s (if arg.extractLsb' 8 24 ≠ 0 then .error .illegalCommand else commit s (translateByte params (argByte arg 0) s)) := rfl
theorem exec_bsPop (arg : Word) :
    exec (.bsPop arg) s =
      runCommand s (if arg ≠ 0 then .error .illegalCommand else popWord s) := rfl
theorem exec_bsEmpty (arg : Word) :
    exec (.bsEmpty arg) s =
      runCommand s (if arg ≠ 0 then .error .illegalCommand else .ok (s.reply (.val (boolValue s.trEmpty)))) := rfl
theorem exec_bsReset (arg : Word) :
    exec (.bsReset arg) s =
      runCommand s (if arg ≠ 0 then .error .illegalCommand else .ok (s.clearTranslator.reply .none)) := rfl
theorem exec_midi1Data (data : BitVec 7) :
    exec (.midi1Data data) s =
      runCommand s (commit s (dataByte params (dataByteOf data) s)) := rfl
theorem exec_midi1NoteOff (channel : Nibble) :
    exec (.midi1NoteOff channel) s =
      runCommand s (commit s (otherStatus params (statusByteOf 0x8 channel) s)) := rfl
theorem exec_midi1NoteOn (channel : Nibble) :
    exec (.midi1NoteOn channel) s =
      runCommand s (commit s (otherStatus params (statusByteOf 0x9 channel) s)) := rfl
theorem exec_midi1PolyPressure (channel : Nibble) :
    exec (.midi1PolyPressure channel) s =
      runCommand s (commit s (otherStatus params (statusByteOf 0xA channel) s)) := rfl
theorem exec_midi1ControlChange (channel : Nibble) :
    exec (.midi1ControlChange channel) s =
      runCommand s (commit s (otherStatus params (statusByteOf 0xB channel) s)) := rfl
theorem exec_midi1ProgramChange (channel : Nibble) :
    exec (.midi1ProgramChange channel) s =
      runCommand s (commit s (otherStatus params (statusByteOf 0xC channel) s)) := rfl
theorem exec_midi1ChannelPressure (channel : Nibble) :
    exec (.midi1ChannelPressure channel) s =
      runCommand s (commit s (otherStatus params (statusByteOf 0xD channel) s)) := rfl
theorem exec_midi1PitchBend (channel : Nibble) :
    exec (.midi1PitchBend channel) s =
      runCommand s (commit s (otherStatus params (statusByteOf 0xE channel) s)) := rfl
theorem exec_midi1SysexStart :
    exec .midi1SysexStart s =
      runCommand s (commit s (sysexStart s)) := rfl
theorem exec_midi1SystemCommonF1 :
    exec .midi1SystemCommonF1 s =
      runCommand s (commit s (otherStatus params 0xF1 s)) := rfl
theorem exec_midi1SystemCommonF2 :
    exec .midi1SystemCommonF2 s =
      runCommand s (commit s (otherStatus params 0xF2 s)) := rfl
theorem exec_midi1SystemCommonF3 :
    exec .midi1SystemCommonF3 s =
      runCommand s (commit s (otherStatus params 0xF3 s)) := rfl
theorem exec_midi1ReservedF4 :
    exec .midi1ReservedF4 s =
      runCommand s (commit s (otherStatus params 0xF4 s)) := rfl
theorem exec_midi1ReservedF5 :
    exec .midi1ReservedF5 s =
      runCommand s (commit s (otherStatus params 0xF5 s)) := rfl
theorem exec_midi1TuneRequest :
    exec .midi1TuneRequest s =
      runCommand s (commit s (otherStatus params 0xF6 s)) := rfl
theorem exec_midi1SysexEnd :
    exec .midi1SysexEnd s =
      runCommand s (commit s (sysexEndOrStatus params s)) := rfl
theorem exec_midi1RealtimeF8 :
    exec .midi1RealtimeF8 s =
      runCommand s (commit s (realtime params 0xF8 s)) := rfl
theorem exec_midi1RealtimeF9 :
    exec .midi1RealtimeF9 s =
      runCommand s (commit s (realtime params 0xF9 s)) := rfl
theorem exec_midi1RealtimeFA :
    exec .midi1RealtimeFA s =
      runCommand s (commit s (realtime params 0xFA s)) := rfl
theorem exec_midi1RealtimeFB :
    exec .midi1RealtimeFB s =
      runCommand s (commit s (realtime params 0xFB s)) := rfl
theorem exec_midi1RealtimeFC :
    exec .midi1RealtimeFC s =
      runCommand s (commit s (realtime params 0xFC s)) := rfl
theorem exec_midi1RealtimeFD :
    exec .midi1RealtimeFD s =
      runCommand s (commit s (realtime params 0xFD s)) := rfl
theorem exec_midi1RealtimeFE :
    exec .midi1RealtimeFE s =
      runCommand s (commit s (realtime params 0xFE s)) := rfl
theorem exec_midi1RealtimeFF :
    exec .midi1RealtimeFF s =
      runCommand s (commit s (realtime params 0xFF s)) := rfl

end Sys2Proof.Machine
end

