-- ==== Sys2Proof/Laws/Encoding.lean ====
section
/-! SUPPORT. The fields of the words the encoder builds, and the opcode map case by case. -/

namespace Sys2Proof

theorem extract_high {k l : Nat} (a : BitVec k) (b : BitVec l) : (a ++ b).extractLsb' l k = a := by
  ext i hi
  simp [BitVec.getLsbD_append, hi]

theorem extract_low {k l : Nat} (a : BitVec k) (b : BitVec l) : (a ++ b).extractLsb' 0 l = b := by
  ext i hi
  simp [BitVec.getLsbD_append, hi]

/-- A word is its high bits followed by its low bits. -/
theorem append_extract {k l : Nat} (w : BitVec (k + l)) : w.extractLsb' l k ++ w.extractLsb' 0 l = w := by
  ext i hi
  simp only [BitVec.getElem_append, BitVec.getElem_extractLsb', Nat.zero_add]
  split
  · exact BitVec.getLsbD_eq_getElem hi
  · rw [show l + (i - l) = i by omega, BitVec.getLsbD_eq_getElem hi]

/-- Two neighbouring fields are one field. -/
theorem append_extract_mid {n : Nat} (p : BitVec n) (a k l : Nat) :
    p.extractLsb' (a + l) k ++ p.extractLsb' a l = p.extractLsb' a (k + l) := by
  ext i hi
  simp only [BitVec.getElem_append, BitVec.getElem_extractLsb']
  split
  · rfl
  · rw [show a + l + (i - l) = a + i by omega]

@[simp] theorem opField_commandWord (op : Byte) (arg : Word) : opField (commandWord op arg) = op := extract_high op arg
@[simp] theorem argField_commandWord (op : Byte) (arg : Word) : argField (commandWord op arg) = arg := extract_low op arg

/-- A command word is its `OP` and its `ARG` (R43). -/
theorem commandWord_fields (w : CommandWord) : commandWord (opField w) (argField w) = w :=
  append_extract (k := 8) (l := 32) w

@[simp] theorem pushOperand_reserved (b : Byte) : (pushOperand b).extractLsb' 8 24 = 0 := extract_high 0#24 b
@[simp] theorem pushOperand_byte (b : Byte) : (pushOperand b).extractLsb' 0 8 = b := extract_low 0#24 b

/-- An operand of `bs.push` whose reserved bits are 0 is its byte (R48). -/
theorem eq_pushOperand {arg : Word} (h : arg.extractLsb' 8 24 = 0) : arg = pushOperand (arg.extractLsb' 0 8) := by
  have e := append_extract (k := 24) (l := 8) arg
  rw [h] at e
  exact e.symm

theorem statusByteOf_high (high channel : Nibble) : (statusByteOf high channel).extractLsb' 4 4 = high :=
  extract_high high channel
theorem statusByteOf_low (high channel : Nibble) : (statusByteOf high channel).extractLsb' 0 4 = channel :=
  extract_low high channel
theorem statusByteOf_fields (b : Byte) : statusByteOf (b.extractLsb' 4 4) (b.extractLsb' 0 4) = b :=
  append_extract (k := 4) (l := 4) b
theorem dataByteOf_data (data : BitVec 7) : (dataByteOf data).extractLsb' 0 7 = data := extract_low 0#1 data

theorem dataByteOf_lt (data : BitVec 7) : dataByteOf data < 0x80 := by
  have h : ∀ d : BitVec 7, dataByteOf d < 0x80 := by decide
  exact h data

/-- A data byte is its low seven bits (R53). -/
theorem eq_dataByteOf {b : Byte} (h : b < 0x80) : b = dataByteOf (b.extractLsb' 0 7) := by
  have k : ∀ b : Byte, b < 0x80 → b = dataByteOf (b.extractLsb' 0 7) := by decide
  exact k b h

theorem extract_left {k l : Nat} (a : BitVec k) (b : BitVec l) (j m : Nat) (_ : j + m ≤ k) :
    (a ++ b).extractLsb' (l + j) m = a.extractLsb' j m := by
  ext i hi
  simp only [BitVec.getElem_extractLsb', BitVec.getLsbD_append]
  rw [if_neg (by omega), show l + j + i - l = j + i by omega]

/-! The fields of a packet built from its fields (R52). -/

theorem packetOf_p2 (cin cn : Nibble) (p0 p1 p2 : Byte) : (packetOf cin cn p0 p1 p2).extractLsb' 0 8 = p2 :=
  extract_low (cn ++ cin ++ p0 ++ p1) p2
theorem packetOf_p1 (cin cn : Nibble) (p0 p1 p2 : Byte) : (packetOf cin cn p0 p1 p2).extractLsb' 8 8 = p1 :=
  (extract_left (cn ++ cin ++ p0 ++ p1) p2 0 8 (by decide)).trans (extract_low (cn ++ cin ++ p0) p1)
theorem packetOf_p0 (cin cn : Nibble) (p0 p1 p2 : Byte) : (packetOf cin cn p0 p1 p2).extractLsb' 16 8 = p0 :=
  (extract_left (cn ++ cin ++ p0 ++ p1) p2 8 8 (by decide)).trans <|
    (extract_left (cn ++ cin ++ p0) p1 0 8 (by decide)).trans (extract_low (cn ++ cin) p0)
theorem packetOf_cin (cin cn : Nibble) (p0 p1 p2 : Byte) : (packetOf cin cn p0 p1 p2).extractLsb' 24 4 = cin :=
  (extract_left (cn ++ cin ++ p0 ++ p1) p2 16 4 (by decide)).trans <|
    (extract_left (cn ++ cin ++ p0) p1 8 4 (by decide)).trans <|
      (extract_left (cn ++ cin) p0 0 4 (by decide)).trans (extract_low cn cin)
theorem packetOf_cn (cin cn : Nibble) (p0 p1 p2 : Byte) : (packetOf cin cn p0 p1 p2).extractLsb' 28 4 = cn :=
  (extract_left (cn ++ cin ++ p0 ++ p1) p2 20 4 (by decide)).trans <|
    (extract_left (cn ++ cin ++ p0) p1 12 4 (by decide)).trans <|
      (extract_left (cn ++ cin) p0 4 4 (by decide)).trans (extract_high cn cin)

/-- A packet is its fields (R52). -/
theorem packetOf_fields (p : Word) :
    packetOf (p.extractLsb' 24 4) (p.extractLsb' 28 4) (p.extractLsb' 16 8) (p.extractLsb' 8 8) (p.extractLsb' 0 8) = p := by
  have e1 := append_extract_mid p 24 4 4
  have e2 := append_extract_mid p 16 8 8
  have e3 := append_extract_mid p 8 16 8
  have e4 := append_extract_mid p 0 24 8
  unfold packetOf
  rw [show (p.extractLsb' 28 4 ++ p.extractLsb' 24 4 : BitVec 8) = p.extractLsb' 24 8 from e1]
  rw [show (p.extractLsb' 24 8 ++ p.extractLsb' 16 8 : BitVec 16) = p.extractLsb' 16 16 from e2]
  rw [show (p.extractLsb' 16 16 ++ p.extractLsb' 8 8 : BitVec 24) = p.extractLsb' 8 24 from e3]
  exact e4.trans BitVec.extractLsb'_eq_self

/-- The opcode map, case by case (R44). -/
theorem opcodeMap_cases (op : Byte) (arg : Word) :
    (op = 0x01 ∧ opcodeMap op arg = some (.le7Dec2 arg)) ∨ (op = 0x02 ∧ opcodeMap op arg = some (.le7Dec4 arg)) ∨
    (op = 0x10 ∧ opcodeMap op arg = some (.usbRecv arg)) ∨ (op = 0x11 ∧ opcodeMap op arg = some (.usbAvail arg)) ∨
    (op = 0x12 ∧ opcodeMap op arg = some (.usbRead arg)) ∨ (op = 0x20 ∧ opcodeMap op arg = some (.bsPush arg)) ∨
    (op = 0x21 ∧ opcodeMap op arg = some (.bsPop arg)) ∨ (op = 0x22 ∧ opcodeMap op arg = some (.bsEmpty arg)) ∨
    (op = 0x23 ∧ opcodeMap op arg = some (.bsReset arg)) ∨
    (opcodeMap op arg = none ∧ op ∉ [0x01, 0x02, 0x10, 0x11, 0x12, 0x20, 0x21, 0x22, 0x23]) := by
  by_cases h : op ∈ [0x01, 0x02, 0x10, 0x11, 0x12, 0x20, 0x21, 0x22, 0x23]
  · simp only [List.mem_cons, List.not_mem_nil, or_false] at h
    rcases h with rfl | rfl | rfl | rfl | rfl | rfl | rfl | rfl | rfl <;> simp [opcodeMap]
  · refine .inr (.inr (.inr (.inr (.inr (.inr (.inr (.inr (.inr ⟨?_, h⟩))))))))
    unfold opcodeMap
    split
    all_goals first
      | rfl
      | (rename_i e; exact absurd (by simp [← BitVec.toNat_inj, e]) h)

/-- What `decode` answers for a command word, by its opcode-map entry (R44, R45). -/
theorem decode_commandWord (op : Byte) (arg : Word) :
    decode (.cmd40 (commandWord op arg)) =
      match opcodeMap op arg with
      | none => .error (.unknownOp op)
      | some i => if i.wellFormed then .ok i else .error (.reservedBits op arg) := by
  cases h : opcodeMap op arg <;> simp only [decode, decodeCommand, opField_commandWord, argField_commandWord, h]

end Sys2Proof
end

