-- ==== Sys2Proof/Laws/State.lean ====
section
/-! SUPPORT. What each named update of the state leaves in each field. -/

namespace Sys2Proof.Machine

variable (s : State)

theorem State.trSxbuf_length : s.trSxbuf.toList.length = 6 := by simp

/-! ### reply -/

@[simp] theorem State.reply_cfgGroup (r : Response) : (s.reply r).cfgGroup = s.cfgGroup := rfl
@[simp] theorem State.reply_cfgCable (r : Response) : (s.reply r).cfgCable = s.cfgCable := rfl
@[simp] theorem State.reply_fltCode (r : Response) : (s.reply r).fltCode = s.fltCode := rfl
@[simp] theorem State.reply_uxFifo (r : Response) : (s.reply r).uxFifo = s.uxFifo := rfl
@[simp] theorem State.reply_trRs (r : Response) : (s.reply r).trRs = s.trRs := rfl
@[simp] theorem State.reply_trD1 (r : Response) : (s.reply r).trD1 = s.trD1 := rfl
@[simp] theorem State.reply_trNd (r : Response) : (s.reply r).trNd = s.trNd := rfl
@[simp] theorem State.reply_trSxst (r : Response) : (s.reply r).trSxst = s.trSxst := rfl
@[simp] theorem State.reply_trSxcnt (r : Response) : (s.reply r).trSxcnt = s.trSxcnt := rfl
@[simp] theorem State.reply_trSxbuf (r : Response) : (s.reply r).trSxbuf = s.trSxbuf := rfl
@[simp] theorem State.reply_trFifo (r : Response) : (s.reply r).trFifo = s.trFifo := rfl
@[simp] theorem State.reply_resp (r : Response) : (s.reply r).resp = some r := rfl
@[simp] theorem State.reply_port (r : Response) : (s.reply r).port = s.port := rfl

/-! ### raiseFault -/

@[simp] theorem State.raiseFault_cfgGroup (c : FaultCode) : (s.raiseFault c).cfgGroup = s.cfgGroup := rfl
@[simp] theorem State.raiseFault_cfgCable (c : FaultCode) : (s.raiseFault c).cfgCable = s.cfgCable := rfl
@[simp] theorem State.raiseFault_fltCode (c : FaultCode) : (s.raiseFault c).fltCode = c.code := rfl
@[simp] theorem State.raiseFault_uxFifo (c : FaultCode) : (s.raiseFault c).uxFifo = s.uxFifo := rfl
@[simp] theorem State.raiseFault_trRs (c : FaultCode) : (s.raiseFault c).trRs = s.trRs := rfl
@[simp] theorem State.raiseFault_trD1 (c : FaultCode) : (s.raiseFault c).trD1 = s.trD1 := rfl
@[simp] theorem State.raiseFault_trNd (c : FaultCode) : (s.raiseFault c).trNd = s.trNd := rfl
@[simp] theorem State.raiseFault_trSxst (c : FaultCode) : (s.raiseFault c).trSxst = s.trSxst := rfl
@[simp] theorem State.raiseFault_trSxcnt (c : FaultCode) : (s.raiseFault c).trSxcnt = s.trSxcnt := rfl
@[simp] theorem State.raiseFault_trSxbuf (c : FaultCode) : (s.raiseFault c).trSxbuf = s.trSxbuf := rfl
@[simp] theorem State.raiseFault_trFifo (c : FaultCode) : (s.raiseFault c).trFifo = s.trFifo := rfl
@[simp] theorem State.raiseFault_resp (c : FaultCode) : (s.raiseFault c).resp = some (.faulted c.code) := rfl
@[simp] theorem State.raiseFault_port (c : FaultCode) : (s.raiseFault c).port = s.port := rfl

/-! ### faultedReply -/

@[simp] theorem State.faultedReply_cfgGroup : (s.faultedReply).cfgGroup = s.cfgGroup := rfl
@[simp] theorem State.faultedReply_cfgCable : (s.faultedReply).cfgCable = s.cfgCable := rfl
@[simp] theorem State.faultedReply_fltCode : (s.faultedReply).fltCode = s.fltCode := rfl
@[simp] theorem State.faultedReply_uxFifo : (s.faultedReply).uxFifo = s.uxFifo := rfl
@[simp] theorem State.faultedReply_trRs : (s.faultedReply).trRs = s.trRs := rfl
@[simp] theorem State.faultedReply_trD1 : (s.faultedReply).trD1 = s.trD1 := rfl
@[simp] theorem State.faultedReply_trNd : (s.faultedReply).trNd = s.trNd := rfl
@[simp] theorem State.faultedReply_trSxst : (s.faultedReply).trSxst = s.trSxst := rfl
@[simp] theorem State.faultedReply_trSxcnt : (s.faultedReply).trSxcnt = s.trSxcnt := rfl
@[simp] theorem State.faultedReply_trSxbuf : (s.faultedReply).trSxbuf = s.trSxbuf := rfl
@[simp] theorem State.faultedReply_trFifo : (s.faultedReply).trFifo = s.trFifo := rfl
@[simp] theorem State.faultedReply_resp : (s.faultedReply).resp = some (.faulted s.fltCode) := rfl
@[simp] theorem State.faultedReply_port : (s.faultedReply).port = s.port := rfl

/-! ### globalReset -/

@[simp] theorem State.globalReset_cfgGroup (g : Option Nibble) (k : Nibble) : (s.globalReset g k).cfgGroup = g.getD 0 := rfl
@[simp] theorem State.globalReset_cfgCable (g : Option Nibble) (k : Nibble) : (s.globalReset g k).cfgCable = k := rfl
@[simp] theorem State.globalReset_fltCode (g : Option Nibble) (k : Nibble) : (s.globalReset g k).fltCode = 0 := rfl
@[simp] theorem State.globalReset_uxFifo (g : Option Nibble) (k : Nibble) : (s.globalReset g k).uxFifo = s.uxFifo.clear := rfl
@[simp] theorem State.globalReset_trRs (g : Option Nibble) (k : Nibble) : (s.globalReset g k).trRs = none := rfl
@[simp] theorem State.globalReset_trD1 (g : Option Nibble) (k : Nibble) : (s.globalReset g k).trD1 = s.trD1 := rfl
@[simp] theorem State.globalReset_trNd (g : Option Nibble) (k : Nibble) : (s.globalReset g k).trNd = 0 := rfl
@[simp] theorem State.globalReset_trSxst (g : Option Nibble) (k : Nibble) : (s.globalReset g k).trSxst = .idle := rfl
@[simp] theorem State.globalReset_trSxcnt (g : Option Nibble) (k : Nibble) : (s.globalReset g k).trSxcnt = 0 := rfl
@[simp] theorem State.globalReset_trSxbuf (g : Option Nibble) (k : Nibble) : (s.globalReset g k).trSxbuf = s.trSxbuf := rfl
@[simp] theorem State.globalReset_trFifo (g : Option Nibble) (k : Nibble) : (s.globalReset g k).trFifo = s.trFifo.clear := rfl
@[simp] theorem State.globalReset_resp (g : Option Nibble) (k : Nibble) : (s.globalReset g k).resp = none := rfl
@[simp] theorem State.globalReset_port (g : Option Nibble) (k : Nibble) : (s.globalReset g k).port = s.port := rfl

/-! ### clearTranslator -/

@[simp] theorem State.clearTranslator_cfgGroup : (s.clearTranslator).cfgGroup = s.cfgGroup := rfl
@[simp] theorem State.clearTranslator_cfgCable : (s.clearTranslator).cfgCable = s.cfgCable := rfl
@[simp] theorem State.clearTranslator_fltCode : (s.clearTranslator).fltCode = s.fltCode := rfl
@[simp] theorem State.clearTranslator_uxFifo : (s.clearTranslator).uxFifo = s.uxFifo := rfl
@[simp] theorem State.clearTranslator_trRs : (s.clearTranslator).trRs = none := rfl
@[simp] theorem State.clearTranslator_trD1 : (s.clearTranslator).trD1 = s.trD1 := rfl
@[simp] theorem State.clearTranslator_trNd : (s.clearTranslator).trNd = 0 := rfl
@[simp] theorem State.clearTranslator_trSxst : (s.clearTranslator).trSxst = .idle := rfl
@[simp] theorem State.clearTranslator_trSxcnt : (s.clearTranslator).trSxcnt = 0 := rfl
@[simp] theorem State.clearTranslator_trSxbuf : (s.clearTranslator).trSxbuf = s.trSxbuf := rfl
@[simp] theorem State.clearTranslator_trFifo : (s.clearTranslator).trFifo = s.trFifo.clear := rfl
@[simp] theorem State.clearTranslator_resp : (s.clearTranslator).resp = s.resp := rfl
@[simp] theorem State.clearTranslator_port : (s.clearTranslator).port = s.port := rfl

/-! ### withCommand -/

@[simp] theorem State.withCommand_cfgGroup (w : CommandWord) : (s.withCommand w).cfgGroup = s.cfgGroup := rfl
@[simp] theorem State.withCommand_cfgCable (w : CommandWord) : (s.withCommand w).cfgCable = s.cfgCable := rfl
@[simp] theorem State.withCommand_fltCode (w : CommandWord) : (s.withCommand w).fltCode = s.fltCode := rfl
@[simp] theorem State.withCommand_uxFifo (w : CommandWord) : (s.withCommand w).uxFifo = s.uxFifo := rfl
@[simp] theorem State.withCommand_trRs (w : CommandWord) : (s.withCommand w).trRs = s.trRs := rfl
@[simp] theorem State.withCommand_trD1 (w : CommandWord) : (s.withCommand w).trD1 = s.trD1 := rfl
@[simp] theorem State.withCommand_trNd (w : CommandWord) : (s.withCommand w).trNd = s.trNd := rfl
@[simp] theorem State.withCommand_trSxst (w : CommandWord) : (s.withCommand w).trSxst = s.trSxst := rfl
@[simp] theorem State.withCommand_trSxcnt (w : CommandWord) : (s.withCommand w).trSxcnt = s.trSxcnt := rfl
@[simp] theorem State.withCommand_trSxbuf (w : CommandWord) : (s.withCommand w).trSxbuf = s.trSxbuf := rfl
@[simp] theorem State.withCommand_trFifo (w : CommandWord) : (s.withCommand w).trFifo = s.trFifo := rfl
@[simp] theorem State.withCommand_resp (w : CommandWord) : (s.withCommand w).resp = s.resp := rfl
@[simp] theorem State.withCommand_port (w : CommandWord) : (s.withCommand w).port = .command w :: s.port := rfl

end Sys2Proof.Machine
end

