-- ==== Sys2Proof/Laws/Ops.lean ====
section
/-! SUPPORT. What the shared operations can do, said once: running a command, and the FIFO component. -/

namespace Sys2Proof.Machine

/-! ### Running a command -/

theorem runCommand_faulted {s : State} (h : s.fltCode ≠ 0) (body : Except FaultCode State) :
    runCommand s body = .next s.faultedReply := if_pos h

theorem runCommand_ok {s : State} (h : s.fltCode = 0) (t : State) : runCommand s (.ok t) = .next t := by
  simp [runCommand, h]

theorem runCommand_error {s : State} (h : s.fltCode = 0) (c : FaultCode) :
    runCommand s (.error c) = .next (s.raiseFault c) := by
  simp [runCommand, h]

/-- The three ends of a command. -/
theorem runCommand_cases {s t : State} {body : Except FaultCode State} (h : runCommand s body = .next t) :
    (s.fltCode ≠ 0 ∧ t = s.faultedReply) ∨ (s.fltCode = 0 ∧ body = .ok t) ∨
      (s.fltCode = 0 ∧ ∃ c, body = .error c ∧ t = s.raiseFault c) := by
  by_cases hs : s.fltCode = 0
  · cases body with
    | ok u => rw [runCommand_ok hs] at h; cases h; exact .inr (.inl ⟨hs, rfl⟩)
    | error c => rw [runCommand_error hs] at h; cases h; exact .inr (.inr ⟨hs, c, rfl, rfl⟩)
  · rw [runCommand_faulted hs] at h; cases h; exact .inl ⟨hs, rfl⟩

theorem runCommand_next (s : State) (body : Except FaultCode State) : ∃ t, runCommand s body = .next t := by
  unfold runCommand
  split
  · exact ⟨_, rfl⟩
  · split <;> exact ⟨_, rfl⟩

/-! ### The FIFO component -/

variable {α : Type} {n : Nat}

@[simp] theorem Fifo.contents_length (f : Fifo α n) : f.contents.length = f.size.val := by
  simp [Fifo.contents]

theorem Fifo.isEmpty_iff (f : Fifo α n) : f.isEmpty = true ↔ f.contents = [] := by
  rw [← List.length_eq_zero_iff]; simp [Fifo.isEmpty]

@[simp] theorem Fifo.contents_clear (f : Fifo α n) : f.clear.contents = [] := by
  rw [← List.length_eq_zero_iff]; simp [Fifo.clear]

theorem Fifo.slot_ne {f : Fifo α n} {i j : Nat} (hij : i < j) (hj : j < n) : (f.slot i).val ≠ (f.slot j).val := by
  simp only [Fifo.slot]
  intro h
  have h1 := f.head.isLt
  have : (f.head.val + i) % n = (f.head.val + j) % n := h
  by_cases a : f.head.val + i < n
  · by_cases b : f.head.val + j < n
    · rw [Nat.mod_eq_of_lt a, Nat.mod_eq_of_lt b] at this; omega
    · rw [Nat.mod_eq_of_lt a, Nat.mod_eq_sub_mod (by omega), Nat.mod_eq_of_lt (by omega)] at this; omega
  · rw [Nat.mod_eq_sub_mod (by omega), Nat.mod_eq_of_lt (by omega : f.head.val + i - n < n),
      Nat.mod_eq_sub_mod (by omega : n ≤ f.head.val + j), Nat.mod_eq_of_lt (by omega)] at this
    omega

/-- `FifoPush` with a free slot appends the newest element (R29). -/
theorem Fifo.push_ok {f : Fifo α n} (v : α) (h : f.size.val < n) :
    ∃ g, f.push v = .ok g ∧ g.contents = f.contents ++ [v] ∧ g.size.val = f.size.val + 1 := by
  refine ⟨_, by simp only [Fifo.push, h, dif_pos]; rfl, ?_, rfl⟩
  simp only [Fifo.contents, List.range_succ, List.map_append, List.map_cons, List.map_nil]
  congr 1
  · apply List.map_congr_left
    intro i hi
    have hi : i < f.size.val := by simpa using hi
    exact Vector.getElem_set_ne _ _ (fun e => Fifo.slot_ne (f := f) hi h e.symm)
  · simp [Fifo.slot]

theorem Fifo.push_full {f : Fifo α n} (v : α) (h : f.size.val = n) : f.push v = .error .fifoOverflow := by
  simp [Fifo.push, h]

/-- `FifoPop` of a FIFO that holds something removes and returns the oldest element (R30). -/
theorem Fifo.pop_ok {f : Fifo α n} (h : f.size.val ≠ 0) :
    ∃ v g, f.pop = .ok (v, g) ∧ f.contents = v :: g.contents := by
  refine ⟨f.buf[f.head.val], _, by simp only [Fifo.pop, if_neg h]; rfl, ?_⟩
  obtain ⟨k, hk⟩ : ∃ k, f.size.val = k + 1 := ⟨f.size.val - 1, by omega⟩
  simp only [Fifo.contents, hk, List.range_succ_eq_map, List.map_cons, List.map_map]
  congr 1
  · simp [Fifo.slot, Nat.mod_eq_of_lt f.head.isLt]
  · apply List.map_congr_left
    intro i _
    simp only [Function.comp, Fifo.slot, Nat.mod_add_mod]
    congr 2
    omega

theorem Fifo.pop_empty {f : Fifo α n} (h : f.size.val = 0) : f.pop = .error .fifoUnderflow := by
  simp [Fifo.pop, h]

theorem Fifo.pop_contents {f g : Fifo α n} {v : α} (h : f.pop = .ok (v, g)) : f.contents = v :: g.contents := by
  by_cases hs : f.size.val = 0
  · rw [Fifo.pop_empty hs] at h; cases h
  · obtain ⟨v', g', h', hc⟩ := Fifo.pop_ok hs
    rw [h'] at h; cases h; exact hc

theorem Fifo.pushAll_ok (f : Fifo α n) (vs : List α) (h : f.size.val + vs.length ≤ n) :
    ∃ g, f.pushAll vs = .ok g ∧ g.contents = f.contents ++ vs := by
  induction vs generalizing f with
  | nil => exact ⟨f, rfl, by simp⟩
  | cons v vs ih =>
    simp only [List.length_cons] at h
    obtain ⟨g, hg, hc, hz⟩ := Fifo.push_ok (f := f) v (by omega)
    obtain ⟨k, hk, hkc⟩ := ih g (by omega)
    exact ⟨k, by simp [Fifo.pushAll, hg, hk], by simp [hkc, hc]⟩

@[simp] theorem Fifo.pushAll_nil (f : Fifo α n) : f.pushAll [] = .ok f := rfl

/-- All of a command's output is pushed when it fits (R65, R75). -/
theorem Fifo.enqueue_ok {f : Fifo α n} {vs : List α} (h : f.size.val + vs.length ≤ n) :
    ∃ g, f.enqueue vs = .ok g ∧ g.contents = f.contents ++ vs := by
  obtain ⟨g, hg, hc⟩ := Fifo.pushAll_ok f vs h
  exact ⟨g, (if_neg (show ¬ n < f.count + vs.length by unfold Fifo.count; omega)).trans hg, hc⟩

/-- Nothing is pushed when it does not (R65, R75). -/
theorem Fifo.enqueue_full {f : Fifo α n} {vs : List α} (h : n < f.size.val + vs.length) :
    f.enqueue vs = .error .fifoOverflow := if_pos h

@[simp] theorem Fifo.enqueue_nil (f : Fifo α n) : f.enqueue [] = .ok f := by
  have h := f.size.isLt
  exact if_neg (show ¬ n < f.count + 0 by unfold Fifo.count; omega)

theorem Fifo.enqueue_cases (f : Fifo α n) (vs : List α) :
    (∃ g, f.enqueue vs = .ok g ∧ g.contents = f.contents ++ vs ∧ f.contents.length + vs.length ≤ n) ∨
      (f.enqueue vs = .error .fifoOverflow ∧ n < f.contents.length + vs.length) := by
  by_cases h : f.size.val + vs.length ≤ n
  · obtain ⟨g, hg, hc⟩ := Fifo.enqueue_ok h
    exact .inl ⟨g, hg, hc, by simpa using h⟩
  · exact .inr ⟨Fifo.enqueue_full (by omega), by simpa using h⟩

end Sys2Proof.Machine
end

