-- ==== Sys2Proof/Laws/Families.lean ====
section
/-! SUPPORT. What the families' shared operations can do, and the one shape every instruction has. -/

namespace Sys2Proof.Machine

/-! ### The extractor -/

theorem receive_other {cn : Nibble} {s : State} (h : cn ≠ s.cfgCable) (bytes : List Byte) :
    receive cn bytes s = .ok (s.reply .none) := if_pos h

/-- A packet of the configured cable: all its bytes, or the fault (R65). -/
theorem receive_cases (bytes : List Byte) (s : State) :
    (∃ f, receive s.cfgCable bytes s = .ok ({ s with uxFifo := f }.reply .none) ∧
        s.uxFifo.enqueue bytes = .ok f ∧ f.contents = s.uxFifo.contents ++ bytes ∧
        s.uxFifo.contents.length + bytes.length ≤ 4) ∨
      (receive s.cfgCable bytes s = .error .fifoOverflow ∧
        4 < s.uxFifo.contents.length + bytes.length) := by
  have hr : receive s.cfgCable bytes s = match s.uxFifo.enqueue bytes with
      | .ok f => .ok ({ s with uxFifo := f }.reply .none)
      | .error c => .error c := if_neg (by simp)
  rcases s.uxFifo.enqueue_cases bytes with ⟨f, hf, hc, hl⟩ | ⟨hf, hl⟩
  · exact .inl ⟨f, by rw [hr, hf], hf, hc, hl⟩
  · exact .inr ⟨by rw [hr, hf], hl⟩

theorem readByte_cases (s : State) :
    (∃ b f, readByte s = .ok ({ s with uxFifo := f }.reply (.val (b.setWidth 32))) ∧
        s.uxFifo.pop = .ok (b, f) ∧ s.uxFifo.contents = b :: f.contents) ∨
      (readByte s = .error .fifoUnderflow ∧ s.uxFifo.contents = []) := by
  by_cases h : s.uxFifo.size.val = 0
  · exact .inr ⟨by simp only [readByte, Fifo.pop_empty h], by rw [← List.length_eq_zero_iff]; simpa using h⟩
  · obtain ⟨b, f, hp, hc⟩ := Fifo.pop_ok h
    exact .inl ⟨b, f, by simp only [readByte, hp], hp, hc⟩

/-! ### The translator -/

theorem popWord_cases (s : State) :
    (∃ w f, popWord s = .ok ({ s with trFifo := f }.reply (.val w)) ∧
        s.trFifo.pop = .ok (w, f) ∧ s.trFifo.contents = w :: f.contents) ∨
      (popWord s = .error .fifoUnderflow ∧ s.trFifo.contents = []) := by
  by_cases h : s.trFifo.size.val = 0
  · exact .inr ⟨by simp only [popWord, Fifo.pop_empty h], by rw [← List.length_eq_zero_iff]; simpa using h⟩
  · obtain ⟨w, f, hp, hc⟩ := Fifo.pop_ok h
    exact .inl ⟨w, f, by simp only [popWord, hp], hp, hc⟩

/-- All of a byte's words and its register writes, or the fault (R75). -/
theorem commit_cases (s : State) (r : Translated) :
    (∃ f, commit s r = .ok ({ r.1 with trFifo := f }.reply .none) ∧ s.trFifo.enqueue r.2 = .ok f ∧
        f.contents = s.trFifo.contents ++ r.2 ∧ s.trFifo.contents.length + r.2.length ≤ 4) ∨
      (commit s r = .error .fifoOverflow ∧ 4 < s.trFifo.contents.length + r.2.length) := by
  rcases s.trFifo.enqueue_cases r.2 with ⟨f, hf, hc, hl⟩ | ⟨hf, hl⟩
  · exact .inl ⟨f, by rw [commit, hf], hf, hc, hl⟩
  · exact .inr ⟨by rw [commit, hf], hl⟩

/-- The translator's registers; the rest of the state is what a byte leaves alone before it is committed. -/
structure SameOutside (s t : State) : Prop where
  cfgGroup : t.cfgGroup = s.cfgGroup
  cfgCable : t.cfgCable = s.cfgCable
  fltCode : t.fltCode = s.fltCode
  uxFifo : t.uxFifo = s.uxFifo
  trFifo : t.trFifo = s.trFifo
  resp : t.resp = s.resp
  port : t.port = s.port

theorem SameOutside.refl (s : State) : SameOutside s s := ⟨rfl, rfl, rfl, rfl, rfl, rfl, rfl⟩

theorem sysexStart_outside (s : State) : SameOutside s (sysexStart s).1 := ⟨rfl, rfl, rfl, rfl, rfl, rfl, rfl⟩
theorem sysexEnd_outside (p : Config.Params) (s : State) : SameOutside s (sysexEnd p s).1 :=
  ⟨rfl, rfl, rfl, rfl, rfl, rfl, rfl⟩
theorem realtime_outside (p : Config.Params) (b : Byte) (s : State) : SameOutside s (realtime p b s).1 :=
  SameOutside.refl s
theorem otherStatus_outside (p : Config.Params) (b : Byte) (s : State) : SameOutside s (otherStatus p b s).1 :=
  ⟨rfl, rfl, rfl, rfl, rfl, rfl, rfl⟩

theorem sysexEndOrStatus_outside (p : Config.Params) (s : State) : SameOutside s (sysexEndOrStatus p s).1 := by
  unfold sysexEndOrStatus
  split
  · exact sysexEnd_outside p s
  · exact otherStatus_outside p _ s

theorem sysexData_outside (b : Byte) (s : State) : SameOutside s (sysexData b s).1 := by
  simp only [sysexData]
  split <;> exact ⟨rfl, rfl, rfl, rfl, rfl, rfl, rfl⟩

theorem runningData_outside (p : Config.Params) (b : Byte) (s : State) : SameOutside s (runningData p b s).1 := by
  unfold runningData
  split
  · exact SameOutside.refl s
  · unfold statusData
    split
    · exact SameOutside.refl s
    · exact SameOutside.refl s
    · exact SameOutside.refl s
    · split <;> exact ⟨rfl, rfl, rfl, rfl, rfl, rfl, rfl⟩

theorem dataByte_outside (p : Config.Params) (b : Byte) (s : State) : SameOutside s (dataByte p b s).1 := by
  unfold dataByte
  split
  · exact sysexData_outside b s
  · exact runningData_outside p b s

theorem translateByte_outside (p : Config.Params) (b : Byte) (s : State) : SameOutside s (translateByte p b s).1 := by
  unfold translateByte
  split
  · split
    · exact sysexStart_outside s
    · split
      · exact sysexEnd_outside p s
      · split
        · exact realtime_outside p b s
        · exact otherStatus_outside p b s
  · exact dataByte_outside p b s

/-- The forms of `bs.push`'s branches: one per rule of 42_translator.md §3 and §4. Every class constructor and every
byte commits one of these. -/
theorem translateByte_branch (p : Config.Params) (b : Byte) (s : State) :
    translateByte p b s = sysexStart s ∨ (translateByte p b s = sysexEnd p s ∧ s.trSxst ≠ .idle) ∨
      translateByte p b s = realtime p b s ∨
      (translateByte p b s = otherStatus p b s ∧ 0x80 ≤ b ∧ b ≤ 0xF7 ∧ b ≠ 0xF0) ∨
      (translateByte p b s = dataByte p b s ∧ b < 0x80) := by
  unfold translateByte
  split
  next hs =>
    split
    · exact .inl rfl
    next h0 =>
      split
      next h7 => exact .inr (.inl ⟨rfl, h7.2⟩)
      · split
        · exact .inr (.inr (.inl rfl))
        next hr =>
          simp only [isStatus, isRealtime, decide_eq_true_eq] at hs hr
          exact .inr (.inr (.inr (.inl ⟨rfl, hs, by bv_omega, h0⟩)))
  next hs =>
    simp only [isStatus, decide_eq_true_eq] at hs
    exact .inr (.inr (.inr (.inr ⟨rfl, by bv_omega⟩)))

/-! ### Every instruction is a command -/

/-- What a command that is not ignored commits: its configuration, its fault register and the port are as before, and
it answers a response that is not `FAULTED`. -/
structure Commits (s t : State) : Prop where
  cfgGroup : t.cfgGroup = s.cfgGroup
  cfgCable : t.cfgCable = s.cfgCable
  fltCode : t.fltCode = s.fltCode
  port : t.port = s.port
  resp : t.resp = some .none ∨ ∃ v, t.resp = some (.val v)

/-- A command's body: it commits, or raises a violation that `FLT_CODE` can hold. -/
structure CommandBody (s : State) (body : Except FaultCode State) : Prop where
  commits : ∀ t, body = .ok t → Commits s t
  raises : ∀ c, body = .error c → c ≠ .configRange

theorem CommandBody.ofReply (s : State) {r : Response} (h : r = .none ∨ ∃ v, r = .val v) :
    CommandBody s (.ok (s.reply r)) := by
  refine ⟨fun t e => ?_, fun c e => (by cases e)⟩
  cases e
  refine ⟨rfl, rfl, rfl, rfl, ?_⟩
  rcases h with h | ⟨v, h⟩
  · exact .inl (by rw [h]; rfl)
  · exact .inr ⟨v, by rw [h]; rfl⟩

theorem CommandBody.ofIllegal (s : State) : CommandBody s (.error .illegalCommand) :=
  ⟨fun t e => (by cases e), fun c e => (by cases e; decide)⟩

theorem CommandBody.ofReceive (cn : Nibble) (bytes : List Byte) (s : State) : CommandBody s (receive cn bytes s) := by
  by_cases h : cn = s.cfgCable
  · subst h
    rcases receive_cases bytes s with ⟨f, hf, _⟩ | ⟨hf, _⟩
    · rw [hf]
      exact ⟨fun t e => (by cases e; exact ⟨rfl, rfl, rfl, rfl, .inl rfl⟩), fun c e => (by cases e)⟩
    · rw [hf]
      exact ⟨fun t e => (by cases e), fun c e => (by cases e; decide)⟩
  · rw [receive_other h]
    exact CommandBody.ofReply s (.inl rfl)

theorem CommandBody.ofCommit {s : State} {r : Translated} (h : SameOutside s r.1) : CommandBody s (commit s r) := by
  rcases commit_cases s r with ⟨f, hf, _⟩ | ⟨hf, _⟩
  · rw [hf]
    exact ⟨fun t e => (by cases e; exact ⟨h.cfgGroup, h.cfgCable, h.fltCode, h.port, .inl rfl⟩), fun c e => (by cases e)⟩
  · rw [hf]
    exact ⟨fun t e => (by cases e), fun c e => (by cases e; decide)⟩

theorem CommandBody.ofRead (s : State) : CommandBody s (readByte s) := by
  rcases readByte_cases s with ⟨b, f, hf, _⟩ | ⟨hf, _⟩
  · rw [hf]
    exact ⟨fun t e => (by cases e; exact ⟨rfl, rfl, rfl, rfl, .inr ⟨_, rfl⟩⟩), fun c e => (by cases e)⟩
  · rw [hf]
    exact ⟨fun t e => (by cases e), fun c e => (by cases e; decide)⟩

theorem CommandBody.ofPop (s : State) : CommandBody s (popWord s) := by
  rcases popWord_cases s with ⟨b, f, hf, _⟩ | ⟨hf, _⟩
  · rw [hf]
    exact ⟨fun t e => (by cases e; exact ⟨rfl, rfl, rfl, rfl, .inr ⟨_, rfl⟩⟩), fun c e => (by cases e)⟩
  · rw [hf]
    exact ⟨fun t e => (by cases e), fun c e => (by cases e; decide)⟩

theorem CommandBody.ofGuard {s : State} {arg : Prop} [Decidable arg] {body : Except FaultCode State}
    (h : CommandBody s body) : CommandBody s (if arg then .error .illegalCommand else body) := by
  split
  · exact CommandBody.ofIllegal s
  · exact h

/-- Every instruction is a command run by `runCommand`, with a body of this shape. -/
theorem exec_runCommand (i : Instr) (s : State) :
    ∃ body, exec i s = runCommand s body ∧ CommandBody s body := by
  cases i with
  | le7Dec2 arg => exact ⟨_, rfl, .ofGuard (.ofReply s (.inr ⟨_, rfl⟩))⟩
  | le7Dec4 arg => exact ⟨_, rfl, .ofReply s (.inr ⟨_, rfl⟩)⟩
  | usbRecv arg => exact ⟨_, rfl, .ofReceive _ _ s⟩
  | usbAvail arg => exact ⟨_, rfl, .ofGuard (.ofReply s (.inr ⟨_, rfl⟩))⟩
  | usbRead arg => exact ⟨_, rfl, .ofGuard (.ofRead s)⟩
  | bsPush arg => exact ⟨_, rfl, .ofGuard (.ofCommit (translateByte_outside _ _ s))⟩
  | bsPop arg => exact ⟨_, rfl, .ofGuard (.ofPop s)⟩
  | bsEmpty arg => exact ⟨_, rfl, .ofGuard (.ofReply s (.inr ⟨_, rfl⟩))⟩
  | bsReset arg =>
    exact ⟨_, rfl, .ofGuard ⟨fun t e => (by cases e; exact ⟨rfl, rfl, rfl, rfl, .inl rfl⟩), fun c e => (by cases e)⟩⟩
  | midi1Data data => exact ⟨_, rfl, .ofCommit (dataByte_outside _ _ s)⟩
  | midi1SysexStart => exact ⟨_, rfl, .ofCommit (sysexStart_outside s)⟩
  | midi1SysexEnd => exact ⟨_, rfl, .ofCommit (sysexEndOrStatus_outside _ s)⟩
  | _ =>
    first
    | exact ⟨_, rfl, .ofReceive _ _ s⟩
    | exact ⟨_, rfl, .ofCommit (otherStatus_outside _ _ s)⟩
    | exact ⟨_, rfl, .ofCommit (realtime_outside _ _ s)⟩

/-! ### One transaction -/

theorem step_idle {s : State} (h : s.port = []) : step s = .next s := by
  simp only [step, runPort, h]

theorem step_event {s : State} {e : HostEvent} {rest : List HostEvent} (h : s.port = e :: rest) :
    step s = perform e { s with port := rest } := by
  simp only [step, runPort, h]

/-- A command word is run as a command, whether it is an instruction or not. -/
theorem performCommand_runCommand (w : CommandWord) (s : State) :
    ∃ body, performCommand w s = runCommand s body ∧ CommandBody s body := by
  unfold performCommand
  split
  · exact exec_runCommand _ s
  · exact ⟨_, rfl, .ofIllegal s⟩

end Sys2Proof.Machine
end

