-- ==== Sys2Proof/Laws/PerInstr.lean ====
section
/-! SUPPORT. A law per instruction: the encoding of a well-formed instruction lies in its row of
spec/opcode_table.json, whose mask and match are written out here as the table gives them. -/

namespace Sys2Proof.Laws

/-- The bits of an encoded instruction, numbered as the table numbers them. -/
def encodedBits : Encoded → Nat
  | .cmd40 w => w.toNat
  | .midi1Byte b => b.toNat
  | .usbMidiPacket p => p.toNat

/-- "mask" and "match" of the instruction's row. -/
def tableRow : Instr → Nat × Nat
  | .le7Dec2 _ => (0xFFFFFF0000, 0x0100000000)
  | .le7Dec4 _ => (0xFF00000000, 0x0200000000)
  | .usbRecv _ => (0xFF00000000, 0x1000000000)
  | .usbAvail _ => (0xFFFFFFFFFF, 0x1100000000)
  | .usbRead _ => (0xFFFFFFFFFF, 0x1200000000)
  | .bsPush _ => (0xFFFFFFFF00, 0x2000000000)
  | .bsPop _ => (0xFFFFFFFFFF, 0x2100000000)
  | .bsEmpty _ => (0xFFFFFFFFFF, 0x2200000000)
  | .bsReset _ => (0xFFFFFFFFFF, 0x2300000000)
  | .midi1Data _ => (0x80, 0x00)
  | .midi1NoteOff _ => (0xF0, 0x80)
  | .midi1NoteOn _ => (0xF0, 0x90)
  | .midi1PolyPressure _ => (0xF0, 0xA0)
  | .midi1ControlChange _ => (0xF0, 0xB0)
  | .midi1ProgramChange _ => (0xF0, 0xC0)
  | .midi1ChannelPressure _ => (0xF0, 0xD0)
  | .midi1PitchBend _ => (0xF0, 0xE0)
  | .midi1SysexStart => (0xFF, 0xF0)
  | .midi1SystemCommonF1 => (0xFF, 0xF1)
  | .midi1SystemCommonF2 => (0xFF, 0xF2)
  | .midi1SystemCommonF3 => (0xFF, 0xF3)
  | .midi1ReservedF4 => (0xFF, 0xF4)
  | .midi1ReservedF5 => (0xFF, 0xF5)
  | .midi1TuneRequest => (0xFF, 0xF6)
  | .midi1SysexEnd => (0xFF, 0xF7)
  | .midi1RealtimeF8 => (0xFF, 0xF8)
  | .midi1RealtimeF9 => (0xFF, 0xF9)
  | .midi1RealtimeFA => (0xFF, 0xFA)
  | .midi1RealtimeFB => (0xFF, 0xFB)
  | .midi1RealtimeFC => (0xFF, 0xFC)
  | .midi1RealtimeFD => (0xFF, 0xFD)
  | .midi1RealtimeFE => (0xFF, 0xFE)
  | .midi1RealtimeFF => (0xFF, 0xFF)
  | .usbCin0 _ _ _ _ => (0x0F000000, 0x00000000)
  | .usbCin1 _ _ _ _ => (0x0F000000, 0x01000000)
  | .usbCin2 _ _ _ _ => (0x0F000000, 0x02000000)
  | .usbCin3 _ _ _ _ => (0x0F000000, 0x03000000)
  | .usbCin4 _ _ _ _ => (0x0F000000, 0x04000000)
  | .usbCin5 _ _ _ _ => (0x0F000000, 0x05000000)
  | .usbCin6 _ _ _ _ => (0x0F000000, 0x06000000)
  | .usbCin7 _ _ _ _ => (0x0F000000, 0x07000000)
  | .usbCin8 _ _ _ _ => (0x0F000000, 0x08000000)
  | .usbCin9 _ _ _ _ => (0x0F000000, 0x09000000)
  | .usbCinA _ _ _ _ => (0x0F000000, 0x0A000000)
  | .usbCinB _ _ _ _ => (0x0F000000, 0x0B000000)
  | .usbCinC _ _ _ _ => (0x0F000000, 0x0C000000)
  | .usbCinD _ _ _ _ => (0x0F000000, 0x0D000000)
  | .usbCinE _ _ _ _ => (0x0F000000, 0x0E000000)
  | .usbCinF _ _ _ _ => (0x0F000000, 0x0F000000)

/-- The instruction's encoding matches its row. -/
def TableRow.Statement (i : Instr) : Prop :=
  i.WellFormed → encodedBits (encode i) &&& (tableRow i).1 = (tableRow i).2

theorem toNat_and_eq {n : Nat} (w m v : BitVec n) (h : w &&& m = v) : w.toNat &&& m.toNat = v.toNat := by
  rw [← BitVec.toNat_and, h]

theorem commandWord_and (op : Byte) (arg m v : Word) (h : arg &&& m = v) :
    (commandWord op arg).toNat &&& ((0xFF#8 : Byte) ++ m).toNat = (op ++ v).toNat := by
  apply toNat_and_eq
  rw [commandWord, BitVec.and_append, h]
  congr 1
  exact BitVec.and_allOnes

theorem and_high_zero {k l : Nat} (arg : BitVec (k + l)) (h : arg.extractLsb' l k = 0) :
    arg &&& (BitVec.allOnes k ++ 0#l) = 0 := by
  have e : arg = arg.extractLsb' l k ++ arg.extractLsb' 0 l := by
    ext i hi
    simp only [BitVec.getElem_append, BitVec.getElem_extractLsb', Nat.zero_add]
    split
    · exact (BitVec.getLsbD_eq_getElem hi).symm
    · rw [show l + (i - l) = i by omega, BitVec.getLsbD_eq_getElem hi]
  rw [e, h, BitVec.and_append]
  simp

theorem statusByteOf_and (high channel : Nibble) :
    (statusByteOf high channel).toNat &&& ((0xF#4 : Nibble) ++ 0#4).toNat = (high ++ 0#4).toNat := by
  apply toNat_and_eq
  rw [statusByteOf, BitVec.and_append, BitVec.and_zero]
  congr 1
  exact BitVec.and_allOnes

theorem packetFields_and (c c' d d' : Nibble) (p p' q q' r r' : Byte) :
    (c ++ d ++ p ++ q ++ r : BitVec (4 + 4 + 8 + 8 + 8)) &&& (c' ++ d' ++ p' ++ q' ++ r') =
      (c &&& c') ++ (d &&& d') ++ (p &&& p') ++ (q &&& q') ++ (r &&& r') := by
  simp only [BitVec.and_append]

theorem packetOf_and (cin cn : Nibble) (p0 p1 p2 : Byte) :
    (packetOf cin cn p0 p1 p2).toNat &&& (0#4 ++ 0xF#4 ++ 0#8 ++ 0#8 ++ 0#8).toNat =
      (0#4 ++ cin ++ 0#8 ++ 0#8 ++ 0#8).toNat := by
  apply toNat_and_eq
  refine (packetFields_and cn 0#4 cin 0xF#4 p0 0#8 p1 0#8 p2 0#8).trans ?_
  rw [show cin &&& 0xF#4 = cin from BitVec.and_allOnes]
  simp only [BitVec.and_zero]

theorem TableRow.le7Dec2 (arg : Word) : TableRow.Statement (.le7Dec2 arg) := fun h =>
  commandWord_and 0x01 arg 0xFFFF0000 0
    (and_high_zero (k := 16) (l := 16) arg (by simpa [Instr.WellFormed, Instr.wellFormed] using h))
theorem TableRow.le7Dec4 (arg : Word) : TableRow.Statement (.le7Dec4 arg) := fun _ =>
  commandWord_and 0x02 arg 0 0 BitVec.and_zero
theorem TableRow.usbRecv (arg : Word) : TableRow.Statement (.usbRecv arg) := fun _ =>
  commandWord_and 0x10 arg 0 0 BitVec.and_zero
theorem TableRow.bsPush (arg : Word) : TableRow.Statement (.bsPush arg) := fun h =>
  commandWord_and 0x20 arg 0xFFFFFF00 0
    (and_high_zero (k := 24) (l := 8) arg (by simpa [Instr.WellFormed, Instr.wellFormed] using h))
theorem TableRow.usbAvail (arg : Word) : TableRow.Statement (.usbAvail arg) := fun h =>
  commandWord_and 0x11 arg 0xFFFFFFFF 0 (by rw [show arg = 0 by simpa [Instr.WellFormed, Instr.wellFormed] using h]; rfl)
theorem TableRow.usbRead (arg : Word) : TableRow.Statement (.usbRead arg) := fun h =>
  commandWord_and 0x12 arg 0xFFFFFFFF 0 (by rw [show arg = 0 by simpa [Instr.WellFormed, Instr.wellFormed] using h]; rfl)
theorem TableRow.bsPop (arg : Word) : TableRow.Statement (.bsPop arg) := fun h =>
  commandWord_and 0x21 arg 0xFFFFFFFF 0 (by rw [show arg = 0 by simpa [Instr.WellFormed, Instr.wellFormed] using h]; rfl)
theorem TableRow.bsEmpty (arg : Word) : TableRow.Statement (.bsEmpty arg) := fun h =>
  commandWord_and 0x22 arg 0xFFFFFFFF 0 (by rw [show arg = 0 by simpa [Instr.WellFormed, Instr.wellFormed] using h]; rfl)
theorem TableRow.bsReset (arg : Word) : TableRow.Statement (.bsReset arg) := fun h =>
  commandWord_and 0x23 arg 0xFFFFFFFF 0 (by rw [show arg = 0 by simpa [Instr.WellFormed, Instr.wellFormed] using h]; rfl)
theorem TableRow.midi1Data (data : BitVec 7) : TableRow.Statement (.midi1Data data) := fun _ =>
  toNat_and_eq (0#1 ++ data) ((1#1 : BitVec 1) ++ 0#7) (0#1 ++ 0#7) (by rw [BitVec.and_append, BitVec.and_zero]; rfl)
theorem TableRow.midi1NoteOff (channel : Nibble) : TableRow.Statement (.midi1NoteOff channel) := fun _ =>
  statusByteOf_and 0x8 channel
theorem TableRow.midi1NoteOn (channel : Nibble) : TableRow.Statement (.midi1NoteOn channel) := fun _ =>
  statusByteOf_and 0x9 channel
theorem TableRow.midi1PolyPressure (channel : Nibble) : TableRow.Statement (.midi1PolyPressure channel) := fun _ =>
  statusByteOf_and 0xA channel
theorem TableRow.midi1ControlChange (channel : Nibble) : TableRow.Statement (.midi1ControlChange channel) := fun _ =>
  statusByteOf_and 0xB channel
theorem TableRow.midi1ProgramChange (channel : Nibble) : TableRow.Statement (.midi1ProgramChange channel) := fun _ =>
  statusByteOf_and 0xC channel
theorem TableRow.midi1ChannelPressure (channel : Nibble) : TableRow.Statement (.midi1ChannelPressure channel) := fun _ =>
  statusByteOf_and 0xD channel
theorem TableRow.midi1PitchBend (channel : Nibble) : TableRow.Statement (.midi1PitchBend channel) := fun _ =>
  statusByteOf_and 0xE channel
theorem TableRow.midi1SysexStart : TableRow.Statement .midi1SysexStart := fun _ => rfl
theorem TableRow.midi1SystemCommonF1 : TableRow.Statement .midi1SystemCommonF1 := fun _ => rfl
theorem TableRow.midi1SystemCommonF2 : TableRow.Statement .midi1SystemCommonF2 := fun _ => rfl
theorem TableRow.midi1SystemCommonF3 : TableRow.Statement .midi1SystemCommonF3 := fun _ => rfl
theorem TableRow.midi1ReservedF4 : TableRow.Statement .midi1ReservedF4 := fun _ => rfl
theorem TableRow.midi1ReservedF5 : TableRow.Statement .midi1ReservedF5 := fun _ => rfl
theorem TableRow.midi1TuneRequest : TableRow.Statement .midi1TuneRequest := fun _ => rfl
theorem TableRow.midi1SysexEnd : TableRow.Statement .midi1SysexEnd := fun _ => rfl
theorem TableRow.midi1RealtimeF8 : TableRow.Statement .midi1RealtimeF8 := fun _ => rfl
theorem TableRow.midi1RealtimeF9 : TableRow.Statement .midi1RealtimeF9 := fun _ => rfl
theorem TableRow.midi1RealtimeFA : TableRow.Statement .midi1RealtimeFA := fun _ => rfl
theorem TableRow.midi1RealtimeFB : TableRow.Statement .midi1RealtimeFB := fun _ => rfl
theorem TableRow.midi1RealtimeFC : TableRow.Statement .midi1RealtimeFC := fun _ => rfl
theorem TableRow.midi1RealtimeFD : TableRow.Statement .midi1RealtimeFD := fun _ => rfl
theorem TableRow.midi1RealtimeFE : TableRow.Statement .midi1RealtimeFE := fun _ => rfl
theorem TableRow.midi1RealtimeFF : TableRow.Statement .midi1RealtimeFF := fun _ => rfl
theorem TableRow.usbCin0 (cn : Nibble) (p0 p1 p2 : Byte) : TableRow.Statement (.usbCin0 cn p0 p1 p2) := fun _ =>
  packetOf_and 0x0 cn p0 p1 p2
theorem TableRow.usbCin1 (cn : Nibble) (p0 p1 p2 : Byte) : TableRow.Statement (.usbCin1 cn p0 p1 p2) := fun _ =>
  packetOf_and 0x1 cn p0 p1 p2
theorem TableRow.usbCin2 (cn : Nibble) (p0 p1 p2 : Byte) : TableRow.Statement (.usbCin2 cn p0 p1 p2) := fun _ =>
  packetOf_and 0x2 cn p0 p1 p2
theorem TableRow.usbCin3 (cn : Nibble) (p0 p1 p2 : Byte) : TableRow.Statement (.usbCin3 cn p0 p1 p2) := fun _ =>
  packetOf_and 0x3 cn p0 p1 p2
theorem TableRow.usbCin4 (cn : Nibble) (p0 p1 p2 : Byte) : TableRow.Statement (.usbCin4 cn p0 p1 p2) := fun _ =>
  packetOf_and 0x4 cn p0 p1 p2
theorem TableRow.usbCin5 (cn : Nibble) (p0 p1 p2 : Byte) : TableRow.Statement (.usbCin5 cn p0 p1 p2) := fun _ =>
  packetOf_and 0x5 cn p0 p1 p2
theorem TableRow.usbCin6 (cn : Nibble) (p0 p1 p2 : Byte) : TableRow.Statement (.usbCin6 cn p0 p1 p2) := fun _ =>
  packetOf_and 0x6 cn p0 p1 p2
theorem TableRow.usbCin7 (cn : Nibble) (p0 p1 p2 : Byte) : TableRow.Statement (.usbCin7 cn p0 p1 p2) := fun _ =>
  packetOf_and 0x7 cn p0 p1 p2
theorem TableRow.usbCin8 (cn : Nibble) (p0 p1 p2 : Byte) : TableRow.Statement (.usbCin8 cn p0 p1 p2) := fun _ =>
  packetOf_and 0x8 cn p0 p1 p2
theorem TableRow.usbCin9 (cn : Nibble) (p0 p1 p2 : Byte) : TableRow.Statement (.usbCin9 cn p0 p1 p2) := fun _ =>
  packetOf_and 0x9 cn p0 p1 p2
theorem TableRow.usbCinA (cn : Nibble) (p0 p1 p2 : Byte) : TableRow.Statement (.usbCinA cn p0 p1 p2) := fun _ =>
  packetOf_and 0xA cn p0 p1 p2
theorem TableRow.usbCinB (cn : Nibble) (p0 p1 p2 : Byte) : TableRow.Statement (.usbCinB cn p0 p1 p2) := fun _ =>
  packetOf_and 0xB cn p0 p1 p2
theorem TableRow.usbCinC (cn : Nibble) (p0 p1 p2 : Byte) : TableRow.Statement (.usbCinC cn p0 p1 p2) := fun _ =>
  packetOf_and 0xC cn p0 p1 p2
theorem TableRow.usbCinD (cn : Nibble) (p0 p1 p2 : Byte) : TableRow.Statement (.usbCinD cn p0 p1 p2) := fun _ =>
  packetOf_and 0xD cn p0 p1 p2
theorem TableRow.usbCinE (cn : Nibble) (p0 p1 p2 : Byte) : TableRow.Statement (.usbCinE cn p0 p1 p2) := fun _ =>
  packetOf_and 0xE cn p0 p1 p2
theorem TableRow.usbCinF (cn : Nibble) (p0 p1 p2 : Byte) : TableRow.Statement (.usbCinF cn p0 p1 p2) := fun _ =>
  packetOf_and 0xF cn p0 p1 p2

end Sys2Proof.Laws
end

