-- ==== Sys2Proof/Tests/Slice0.lean ====
section
/-! SUPPORT. Tests: ill-formed instructions, decoding of words written out from the spec, single steps whose results come
from spec/95_test_vectors.md (named by its ids), and a witness for the hypotheses of each obligation. -/

open Sys2Proof Sys2Proof.Machine

namespace Sys2Proof.Tests

/-! ### WellFormed refuses a reserved bit (R44, R45) -/

theorem test_wf_le7Dec2 : ¬ (Instr.le7Dec2 0x00010000).WellFormed ∧ (Instr.le7Dec2 0xFFFF).WellFormed := by decide
theorem test_wf_usbAvail : ¬ (Instr.usbAvail 0x00000001).WellFormed ∧ (Instr.usbAvail 0).WellFormed := by decide
theorem test_wf_usbRead : ¬ (Instr.usbRead 0x80000000).WellFormed ∧ (Instr.usbRead 0).WellFormed := by decide
theorem test_wf_bsPush : ¬ (Instr.bsPush 0x00000100).WellFormed ∧ (Instr.bsPush 0xFF).WellFormed := by decide
theorem test_wf_bsPop : ¬ (Instr.bsPop 0x00000001).WellFormed ∧ (Instr.bsPop 0).WellFormed := by decide
theorem test_wf_bsEmpty : ¬ (Instr.bsEmpty 0x00000100).WellFormed ∧ (Instr.bsEmpty 0).WellFormed := by decide
theorem test_wf_bsReset : ¬ (Instr.bsReset 0x00000002).WellFormed ∧ (Instr.bsReset 0).WellFormed := by decide

/-! ### Decoding, each word written out from the fields of R43, R44, R52 and R53 -/

theorem test_decode_le7 :
    decode (.cmd40 0b00000001_00000000_00000000_01000000_01111111) = .ok (.le7Dec2 0x407F) ∧
    decode (.cmd40 0b00000010_00010010_00110100_01010110_01111000) = .ok (.le7Dec4 0x12345678) := by decide

theorem test_decode_usb :
    decode (.cmd40 0b00010000_0010_1001_10010000_00111100_01100100) = .ok (.usbRecv 0x29903C64) ∧
    decode (.cmd40 0b00010001_00000000_00000000_00000000_00000000) = .ok (.usbAvail 0) ∧
    decode (.cmd40 0b00010010_00000000_00000000_00000000_00000000) = .ok (.usbRead 0) := by decide

theorem test_decode_bs :
    decode (.cmd40 0b00100000_00000000_00000000_00000000_10010001) = .ok (.bsPush 0x91) ∧
    decode (.cmd40 0b00100001_00000000_00000000_00000000_00000000) = .ok (.bsPop 0) ∧
    decode (.cmd40 0b00100010_00000000_00000000_00000000_00000000) = .ok (.bsEmpty 0) ∧
    decode (.cmd40 0b00100011_00000000_00000000_00000000_00000000) = .ok (.bsReset 0) := by decide

/-- T-ILL-1 and T-ILL-2. -/
theorem test_decode_refuses :
    decode (.cmd40 0x0000000000) = .error (.unknownOp 0x00) ∧ decode (.cmd40 0x0300000000) = .error (.unknownOp 0x03) ∧
    decode (.cmd40 0x1300000000) = .error (.unknownOp 0x13) ∧ decode (.cmd40 0xFF00000000) = .error (.unknownOp 0xFF) ∧
    decode (.cmd40 0x0100010000) = .error (.reservedBits 0x01 0x00010000) ∧
    decode (.cmd40 0x1100000001) = .error (.reservedBits 0x11 0x00000001) ∧
    decode (.cmd40 0x1280000000) = .error (.reservedBits 0x12 0x80000000) ∧
    decode (.cmd40 0x2080000000) = .error (.reservedBits 0x20 0x80000000) ∧
    decode (.cmd40 0x2100000001) = .error (.reservedBits 0x21 0x00000001) ∧
    decode (.cmd40 0x2200000100) = .error (.reservedBits 0x22 0x00000100) ∧
    decode (.cmd40 0x2300000002) = .error (.reservedBits 0x23 0x00000002) := by decide

theorem test_decode_data_and_channel :
    decodeTableWord 8 0b0_1111111 = some (.midi1Data 0x7F) ∧ decodeTableWord 8 0b1000_0000 = some (.midi1NoteOff 0) ∧
    decodeTableWord 8 0b1001_0001 = some (.midi1NoteOn 1) ∧ decodeTableWord 8 0b1010_0010 = some (.midi1PolyPressure 2) ∧
    decodeTableWord 8 0b1011_1111 = some (.midi1ControlChange 15) ∧
    decodeTableWord 8 0b1100_0101 = some (.midi1ProgramChange 5) ∧
    decodeTableWord 8 0b1101_0011 = some (.midi1ChannelPressure 3) ∧
    decodeTableWord 8 0b1110_1000 = some (.midi1PitchBend 8) := by decide

theorem test_decode_system :
    decodeTableWord 8 0b11110000 = some .midi1SysexStart ∧ decodeTableWord 8 0b11110001 = some .midi1SystemCommonF1 ∧
    decodeTableWord 8 0b11110010 = some .midi1SystemCommonF2 ∧ decodeTableWord 8 0b11110011 = some .midi1SystemCommonF3 ∧
    decodeTableWord 8 0b11110100 = some .midi1ReservedF4 ∧ decodeTableWord 8 0b11110101 = some .midi1ReservedF5 ∧
    decodeTableWord 8 0b11110110 = some .midi1TuneRequest ∧ decodeTableWord 8 0b11110111 = some .midi1SysexEnd := by decide

theorem test_decode_realtime :
    decodeTableWord 8 0b11111000 = some .midi1RealtimeF8 ∧ decodeTableWord 8 0b11111001 = some .midi1RealtimeF9 ∧
    decodeTableWord 8 0b11111010 = some .midi1RealtimeFA ∧ decodeTableWord 8 0b11111011 = some .midi1RealtimeFB ∧
    decodeTableWord 8 0b11111100 = some .midi1RealtimeFC ∧ decodeTableWord 8 0b11111101 = some .midi1RealtimeFD ∧
    decodeTableWord 8 0b11111110 = some .midi1RealtimeFE ∧ decodeTableWord 8 0b11111111 = some .midi1RealtimeFF := by decide

theorem test_decode_packets_low :
    decodeTableWord 32 0b0001_0000_10010001_00111100_01100100 = some (.usbCin0 1 0x91 0x3C 0x64) ∧
    decodeTableWord 32 0b0010_0001_10010001_00111100_01100100 = some (.usbCin1 2 0x91 0x3C 0x64) ∧
    decodeTableWord 32 0b0011_0010_10010001_00111100_01100100 = some (.usbCin2 3 0x91 0x3C 0x64) ∧
    decodeTableWord 32 0b0100_0011_10010001_00111100_01100100 = some (.usbCin3 4 0x91 0x3C 0x64) ∧
    decodeTableWord 32 0b0101_0100_10010001_00111100_01100100 = some (.usbCin4 5 0x91 0x3C 0x64) ∧
    decodeTableWord 32 0b0110_0101_10010001_00111100_01100100 = some (.usbCin5 6 0x91 0x3C 0x64) ∧
    decodeTableWord 32 0b0111_0110_10010001_00111100_01100100 = some (.usbCin6 7 0x91 0x3C 0x64) ∧
    decodeTableWord 32 0b1000_0111_10010001_00111100_01100100 = some (.usbCin7 8 0x91 0x3C 0x64) := by decide

theorem test_decode_packets_high :
    decodeTableWord 32 0b1001_1000_10010001_00111100_01100100 = some (.usbCin8 9 0x91 0x3C 0x64) ∧
    decodeTableWord 32 0b1010_1001_10010001_00111100_01100100 = some (.usbCin9 10 0x91 0x3C 0x64) ∧
    decodeTableWord 32 0b1011_1010_10010001_00111100_01100100 = some (.usbCinA 11 0x91 0x3C 0x64) ∧
    decodeTableWord 32 0b1100_1011_10010001_00111100_01100100 = some (.usbCinB 12 0x91 0x3C 0x64) ∧
    decodeTableWord 32 0b1101_1100_10010001_00111100_01100100 = some (.usbCinC 13 0x91 0x3C 0x64) ∧
    decodeTableWord 32 0b1110_1101_10010001_00111100_01100100 = some (.usbCinD 14 0x91 0x3C 0x64) ∧
    decodeTableWord 32 0b1111_1110_10010001_00111100_01100100 = some (.usbCinE 15 0x91 0x3C 0x64) ∧
    decodeTableWord 32 0b0000_1111_10010001_00111100_01100100 = some (.usbCinF 0 0x91 0x3C 0x64) := by decide

/-! ### Single steps -/

/-- The state one step after a table word has been put on the port. -/
def after (s : State) (nbits w : Nat) : Option State :=
  match step (s.withFetchWord nbits w) with
  | .next t => some t
  | .fault _ => none
  | .refused _ => none

/-- The response of that step. -/
def respAfter (s : State) (nbits w : Nat) : Option Response := (after s nbits w).bind (·.resp)

/-- The words held after that step. -/
def wordsAfter (s : State) (nbits w : Nat) : Option (List Word) := (after s nbits w).map (·.trFifo.contents)

/-- The bytes held after that step. -/
def bytesAfter (s : State) (nbits w : Nat) : Option (List Byte) := (after s nbits w).map (·.uxFifo.contents)

/-- Slots of four bytes. -/
def ux (head : Fin 4) (size : Fin 5) : Fifo Byte Config.uxCap := { buf := #v[0x91, 0x3C, 0x64, 0xF8], head, size }

/-- Slots of four words. -/
def tr (head : Fin 4) (size : Fin 5) : Fifo Word Config.trCap :=
  { buf := #v[0x30160102, 0x03040506, 0x20F80000, 0x20913C64], head, size }

/-- Reset, cable 5, some bytes held. -/
def uxHolds (head : Fin 4) (size : Fin 5) : State := { State.reset with cfgCable := 5, uxFifo := ux head size }

/-- Reset, some words held. -/
def trHolds (head : Fin 4) (size : Fin 5) : State := { State.reset with trFifo := tr head size }

/-- Running status `st`, `nd` bytes collected (0x3C). -/
def running (st : Byte) (nd : Fin 2) (size : Fin 5) : State :=
  { trHolds 0 size with trRs := some st, trD1 := 0x3C, trNd := nd }

/-- A sysex message in progress, `cnt` bytes held. -/
def inSysex (sx : SxState) (cnt : Fin 6) (size : Fin 5) : State :=
  { trHolds 0 size with trSxst := sx, trSxcnt := cnt, trSxbuf := #v[1, 2, 3, 4, 5, 0x55] }

/-- A fault recorded. -/
def faulted (code : BitVec 3) : State := { State.reset with fltCode := code }

/-- A state with a transaction on the port. -/
def withEvent (s : State) (e : HostEvent) : State := { s with port := [e] }

/-- S-L4 and L-4. -/
theorem test_le7Dec2 : respAfter .reset 40 0x0100007F7F = some (.val 0x3FFF) ∧
    respAfter .reset 40 0x010000407F = some (.val 0x207F) := by decide
/-- L-15. -/
theorem test_le7Dec2_reserved : respAfter .reset 40 0x01FFFF0000 = some (.faulted 3) := by decide
/-- L-5 and L-12. -/
theorem test_le7Dec4 : respAfter .reset 40 0x0204030201 = some (.val 0x0080C101) ∧
    respAfter .reset 40 0x0212345678 = some (.val 0x024D2B78) := by decide
/-- U-2: 3 + 3 > 4, nothing pushed. -/
theorem test_usbRecv_overflow : respAfter (uxHolds 0 3) 40 0x1059913C64 = some (.faulted 1) ∧
    bytesAfter (uxHolds 0 3) 40 0x1059913C64 = some [0x91, 0x3C, 0x64] := by decide
/-- U-3: a full FIFO, CIN 0 and another cable. -/
theorem test_usbRecv_full : respAfter (uxHolds 0 4) 40 0x1050FFFFFF = some .none ∧
    respAfter (uxHolds 0 4) 40 0x1069913C64 = some .none := by decide
/-- U-1, across the end of the slots: the oldest byte is in slot 3. -/
theorem test_usbRead_wraps : respAfter (uxHolds 3 2) 40 0x1200000000 = some (.val 0xF8) ∧
    bytesAfter (uxHolds 3 2) 40 0x1200000000 = some [0x91] := by decide
/-- U-5. -/
theorem test_usbRead_underflow : respAfter .reset 40 0x1200000000 = some (.faulted 2) := by decide
/-- U-1. -/
theorem test_usbAvail : respAfter .reset 40 0x1100000000 = some (.val 0) ∧
    respAfter (uxHolds 1 1) 40 0x1100000000 = some (.val 1) := by decide
/-- S-T1, its last byte; and X-16. -/
theorem test_bsPush : wordsAfter (running 0x91 1 0) 40 0x2000000064 = some [0x20913C64] ∧
    wordsAfter { running 0x95 1 0 with cfgGroup := 15 } 40 0x2000000002 = some [0x2F953C02] := by decide
/-- T-OVF-1: 0xF7 needs two slots of the full FIFO. -/
theorem test_bsPush_overflow : respAfter (inSysex .continuing 1 4) 40 0x20000000F7 = some (.faulted 1) ∧
    (after (inSysex .continuing 1 4) 40 0x20000000F7).map (·.trSxcnt) = some 1 := by decide
/-- P1: the oldest word first. -/
theorem test_bsPop : respAfter (trHolds 3 2) 40 0x2100000000 = some (.val 0x20913C64) ∧
    wordsAfter (trHolds 3 2) 40 0x2100000000 = some [0x30160102] := by decide
/-- T-UF-1. -/
theorem test_bsPop_underflow : respAfter .reset 40 0x2100000000 = some (.faulted 2) := by decide
/-- T-E-1 and T-E-2. -/
theorem test_bsEmpty : respAfter (running 0x91 1 0) 40 0x2200000000 = some (.val 1) ∧
    respAfter (trHolds 0 1) 40 0x2200000000 = some (.val 0) := by decide
/-- S-R1. -/
theorem test_bsReset : (after (running 0x91 1 1) 40 0x2300000000).map (fun t => (t.trRs, t.trNd, t.trFifo.size)) =
    some (none, 0, 0) := by decide
/-- T-OVF-4: a fault is not cleared. -/
theorem test_bsReset_faulted : respAfter (faulted 1) 40 0x2300000000 = some (.faulted 1) ∧
    (after (faulted 1) 40 0x2300000000).map (·.fltCode) = some 1 := by decide
/-- T-4 (NEED 1) and T-17 (reserved). -/
theorem test_midi1Data_running : wordsAfter (running 0xC5 0 0) 8 0x08 = some [0x20C50800] ∧
    wordsAfter (running 0xF4 0 0) 8 0x01 = some [] := by decide
/-- S-13: the sixth byte flushes START. -/
theorem test_midi1Data_sysex : wordsAfter (inSysex .started 5 0) 8 0x06 = some [0x30160102, 0x03040506] ∧
    (after (inSysex .started 5 0) 8 0x06).map (fun t => (t.trSxst, t.trSxcnt)) = some (.continuing, 0) := by decide
/-- X-12: a note-off aborts a sysex message without a packet. -/
theorem test_midi1NoteOff : (after (inSysex .continuing 1 0) 8 0x80).map
    (fun t => (t.trRs, t.trSxst, t.trSxcnt, t.trFifo.size)) = some (some 0x80, .idle, 0, 0) := by decide
/-- T-8: the same status again drops the pending byte. -/
theorem test_midi1NoteOn : (after (running 0x90 1 0) 8 0x90).map (fun t => (t.trRs, t.trNd)) = some (some 0x90, 0) := by
  decide
/-- T-2. -/
theorem test_midi1PolyPressure : (after .reset 8 0xA2).map (·.trRs) = some (some 0xA2) := by decide
/-- T-3. -/
theorem test_midi1ControlChange : (after .reset 8 0xB0).map (·.trRs) = some (some 0xB0) := by decide
/-- T-9. -/
theorem test_midi1ProgramChange : (after (running 0x90 1 0) 8 0xC0).map (fun t => (t.trRs, t.trNd)) =
    some (some 0xC0, 0) := by decide
/-- T-5. -/
theorem test_midi1ChannelPressure : (after .reset 8 0xD3).map (·.trRs) = some (some 0xD3) := by decide
/-- T-6. -/
theorem test_midi1PitchBend : (after .reset 8 0xE0).map (·.trRs) = some (some 0xE0) := by decide
/-- X-9: a second 0xF0 restarts. -/
theorem test_midi1SysexStart : (after (inSysex .continuing 2 4) 8 0xF0).map (fun t => (t.trSxst, t.trSxcnt, t.trRs)) =
    some (.started, 0, none) := by decide
/-- X-3: COMPLETE with five bytes. -/
theorem test_midi1SysexEnd : wordsAfter (inSysex .started 5 0) 8 0xF7 = some [0x30050102, 0x03040500] := by decide
/-- T-20: with no sysex message active. -/
theorem test_midi1SysexEnd_idle : (after .reset 8 0xF7).map (fun t => (t.trRs, t.trFifo.size)) = some (some 0xF7, 0) := by
  decide
/-- T-14, T-15, T-16: the second word under running status. -/
theorem test_midi1SystemCommon : wordsAfter (running 0xF1 0 0) 8 0x45 = some [0x20F14500] ∧
    wordsAfter (running 0xF2 1 0) 8 0x40 = some [0x20F23C40] ∧
    wordsAfter (running 0xF3 0 0) 8 0x06 = some [0x20F30600] := by decide
/-- T-17, T-18. -/
theorem test_midi1Reserved : (after .reset 8 0xF4).map (·.trRs) = some (some 0xF4) ∧
    (after .reset 8 0xF5).map (·.trRs) = some (some 0xF5) := by decide
/-- X-10. -/
theorem test_midi1TuneRequest : wordsAfter (inSysex .started 2 0) 8 0xF6 = some [0x20F60000] ∧
    (after (inSysex .started 2 0) 8 0xF6).map (fun t => (t.trRs, t.trSxst)) = some (some 0xF6, .idle) := by decide
/-- T-13. -/
theorem test_midi1Realtime : wordsAfter .reset 8 0xF9 = some [0x20F90000] ∧
    wordsAfter .reset 8 0xFF = some [0x20FF0000] := by decide
/-- X-8 and T-11: a realtime byte changes no register. -/
theorem test_midi1Realtime_transparent :
    (after (inSysex .started 1 0) 8 0xF8).map (fun t => (t.trSxst, t.trSxcnt)) = some (.started, 1) ∧
    (after (running 0x90 1 0) 8 0xF8).map (fun t => (t.trRs, t.trNd)) = some (some 0x90, 1) := by decide
/-- U-CIN, the counts 0, 1, 2 and 3. -/
theorem test_usbCin_counts : bytesAfter .reset 32 0x01913C64 = some [] ∧ bytesAfter .reset 32 0x0F913C64 = some [0x91] ∧
    bytesAfter .reset 32 0x0C913C64 = some [0x91, 0x3C] ∧
    bytesAfter .reset 32 0x0E913C64 = some [0x91, 0x3C, 0x64] := by decide
/-- S-U1. -/
theorem test_usbCin9_other_cable : bytesAfter .reset 32 0x19913C64 = some [] := by decide
/-- P4, step 8. -/
theorem test_reset_event : (match step (withEvent (faulted 1) (.reset (some 7) 2)) with
    | .next t => some (t.fltCode, t.cfgGroup, t.cfgCable, t.resp) | _ => none) = some (0, 7, 2, none) := by decide
/-- X-14: X-2 with SYSEX_SINGLE_STATUS = END. -/
theorem test_param_single_status :
    (sysexEnd { mtSystem := 0x2, sysexSingleStatus := 0x3 } (inSysex .started 1 0)).2 = [0x30310100, 0] := by decide
/-- X-15: MT_SYSTEM = 0x1. -/
theorem test_param_mt_system : word1 { mtSystem := 0x1, sysexSingleStatus := 0x0 } 0 0xF8 0 0 = 0x10F80000 ∧
    word1 { mtSystem := 0x1, sysexSingleStatus := 0x0 } 0 0x90 1 2 = 0x20900102 := by decide
/-- P5, P1: two assembly lines, one in decimal, with a comment. -/
theorem test_assemble_text : assembleText "le7.dec4 0x01, 0x02, 0x03, 0x04".toList = some [0x0204030201] ∧
    assembleText "  bs.push 145 ; note-on".toList = some [0x2000000091] := by decide
/-- R49, R50: an operand that does not fit, a pseudo-instruction without a command. -/
theorem test_assemble_refuses : assembleText "bs.push 0x100".toList = none ∧ assemble (.bsSend []) = none ∧
    assemble (.bsPopn 0) = none := by decide

/-! ### Witnesses: states and operands that meet the hypotheses of each obligation, clause by clause -/

theorem witness_GlobalResetLeavesResetValues :
    (withEvent (faulted 1) (.reset none 15)).port = .reset none 15 :: [] ∧
    (withEvent (uxHolds 0 4) (.reset (some 15) 0)).port = .reset (some 15) 0 :: [] := by decide

theorem witness_ConfigurationFixedUntilReset :
    (∃ t, step (withEvent .reset (.command 0x20000000F0)) = .next t ∧
      ∀ g k rest, (withEvent .reset (.command 0x20000000F0)).port ≠ .reset g k :: rest) ∧
    (∃ t, step (faulted 1) = .next t ∧ ∀ g k rest, (faulted 1).port ≠ .reset g k :: rest) ∧
    (∃ t, step (withEvent .reset (.reset none 15)) = .next t ∧
      (withEvent .reset (.reset none 15)).port = .reset none 15 :: []) :=
  ⟨⟨_, rfl, by simp [withEvent]⟩, ⟨_, rfl, by simp [faulted, State.reset, State.resetWith]⟩, _, rfl, rfl⟩

theorem witness_ConstructionChecksRange :
    (15 < 16 ∧ 15 < 16) ∧ (0 < 16 ∧ 0 < 16) ∧ (16 ≤ 16 ∨ 16 ≤ 0) ∧ (16 ≤ 15 ∨ 16 ≤ 16) := by decide

/-- A state with a sysex message half-way and full FIFOs that meets the invariants. -/
theorem witness_inv : (inSysex .continuing 2 4).Inv where
  sysexClearsStatus := by decide
  pendingNeedsTwo h := absurd h (by decide)
  idleHoldsNone h := absurd h (by decide)
  statusLegal st h := (by cases h)
  pendingIsData := by decide
  heldAreData := by decide
  faultLegal := by decide

theorem witness_StepKeepsInvariant :
    ∃ t, (withEvent (inSysex .continuing 2 4) (.command 0x2000000007)).Inv ∧
      step (withEvent (inSysex .continuing 2 4) (.command 0x2000000007)) = .next t :=
  ⟨_, ⟨witness_inv.1, witness_inv.2, witness_inv.3, witness_inv.4, witness_inv.5, witness_inv.6, witness_inv.7⟩, rfl⟩

theorem witness_StepRunsDecodedInstruction :
    (withEvent .reset (.command 0x1059913C64)).port = .command 0x1059913C64 :: [] ∧
    decode (.cmd40 0x1059913C64) = .ok (.usbRecv 0x59913C64) := by decide

theorem witness_StepWaitsUnchanged : (faulted 3).port = [] := by decide

theorem witness_EveryCommandHasAResponse :
    (∃ t, (withEvent .reset (.command 0x1100000000)).port = .command 0x1100000000 :: [] ∧
      step (withEvent .reset (.command 0x1100000000)) = .next t ∧ t.fltCode = 0) ∧
    (∃ t, (withEvent .reset (.command 0x1200000000)).port = .command 0x1200000000 :: [] ∧
      step (withEvent .reset (.command 0x1200000000)) = .next t ∧ t.fltCode ≠ 0) :=
  ⟨⟨_, rfl, rfl, by decide⟩, _, rfl, rfl, by decide⟩

theorem witness_FaultEntryIsPrecise :
    ∃ t, (withEvent (trHolds 0 4) (.command 0x20000000F6)).port = .command 0x20000000F6 :: [] ∧
      (withEvent (trHolds 0 4) (.command 0x20000000F6)).fltCode = 0 ∧
      step (withEvent (trHolds 0 4) (.command 0x20000000F6)) = .next t ∧ t.fltCode ≠ 0 :=
  ⟨_, rfl, rfl, rfl, by decide⟩

theorem witness_FaultedStateIgnoresCommands :
    ((withEvent (faulted 1) (.command 0x9900000000)).fltCode ≠ 0 ∧
      (withEvent (faulted 1) (.command 0x9900000000)).port = .command 0x9900000000 :: []) ∧
    ((withEvent (faulted 7) (.reset (some 1) 2)).fltCode ≠ 0 ∧
      (withEvent (faulted 7) (.reset (some 1) 2)).port = .reset (some 1) 2 :: []) := by decide

theorem witness_FaultRegisterHoldsFirstViolation :
    (∃ t, step (withEvent .reset (.command 0x2100000000)) = .next t ∧
      (∀ g k rest, (withEvent .reset (.command 0x2100000000)).port ≠ .reset g k :: rest) ∧ t.fltCode = 2) ∧
    (∃ t, step (withEvent (faulted 2) (.reset none 0)) = .next t ∧
      (withEvent (faulted 2) (.reset none 0)).port = .reset none 0 :: []) :=
  ⟨⟨_, rfl, by simp [withEvent], by decide⟩, _, rfl, rfl⟩

/-- An undefined `OP`, and a reserved bit. -/
theorem witness_IllegalCommandsFault :
    ((withEvent .reset (.command (commandWord 0x24 0))).port = .command (commandWord 0x24 0) :: [] ∧
      (withEvent .reset (.command (commandWord 0x24 0))).fltCode = 0 ∧ ¬ LegalCommand 0x24 0) ∧
    ((withEvent .reset (.command (commandWord 0x20 0x100))).port = .command (commandWord 0x20 0x100) :: [] ∧
      (withEvent .reset (.command (commandWord 0x20 0x100))).fltCode = 0 ∧ ¬ LegalCommand 0x20 0x100) := by
  unfold LegalCommand
  decide

theorem witness_DecoderAcceptsLegalCommandsOnly :
    (∃ i, decode (.cmd40 (commandWord 0x01 0xFFFF)) = .ok i) ∧ LegalCommand 0x01 0xFFFF ∧ ¬ LegalCommand 0x01 0x10000 :=
  ⟨⟨.le7Dec2 0xFFFF, by decide⟩, by unfold LegalCommand; decide, by unfold LegalCommand; decide⟩

theorem witness_ReservedBitsFaultBeforePreconditions :
    State.reset.fltCode = 0 ∧ ¬ (Instr.usbRead 0x80000000).WellFormed ∧ ¬ (Instr.le7Dec2 0x10000).WellFormed := by decide

theorem witness_DecodeOfEncodeIsIdentity :
    (Instr.bsPush 0xFF).WellFormed ∧ (Instr.midi1Data 0x7F).WellFormed ∧ (Instr.usbCinF 15 0 0 0xFF).WellFormed := by decide

theorem witness_EncodeOfDecodeIsIdentity :
    decode (.cmd40 0x10FFFFFFFF) = .ok (.usbRecv 0xFFFFFFFF) ∧ decode (.midi1Byte 0xF7) = .ok .midi1SysexEnd ∧
    decode (.usbMidiPacket 0xF5000001) = .ok (.usbCin5 15 0 0 1) := by decide

/-- The four clauses: faulted; reserved bit 16; all operand bits. -/
theorem witness_Le7Dec2Result :
    (faulted 1).fltCode ≠ 0 ∧ State.reset.fltCode = 0 ∧ (0x00010000 : Word).extractLsb' 16 16 ≠ 0 ∧
    (0x0000FFFF : Word).extractLsb' 16 16 = 0 := by decide

theorem witness_Le7Dec4Result : (faulted 3).fltCode ≠ 0 ∧ State.reset.fltCode = 0 := by decide

theorem witness_Le7IsSumOfGroups :
    (uxHolds 0 4).fltCode = 0 ∧ (0x00007F7F : Word).extractLsb' 16 16 = 0 := by decide

theorem witness_Le7IsInjectiveAndOnto :
    (([0x7F, 0x00] : List Byte).length = ([0x7F, 0x00] : List Byte).length ∧ (∀ b ∈ ([0x7F, 0x00] : List Byte), b < 0x80) ∧
      le7Decode [0x7F, 0x00] = le7Decode [0x7F, 0x00]) ∧
    0x3FFF < 2 ^ (7 * 2) ∧ 0 < 2 ^ (7 * 0) ∧ 1 ≤ 1 := by decide

/-- The clause on the commands' results. -/
theorem witness_Le7IsInjectiveAndOnto_results :
    ∃ t, State.reset.fltCode = 0 ∧ t.resp = some (.val 0x3FFF) ∧ exec (.le7Dec2 0xFFFF) State.reset = .next t :=
  ⟨_, rfl, by decide, rfl⟩

/-- Faulted; another cable; three bytes into one free slot; three into three; none into a full FIFO. -/
theorem witness_UsbRecvResult :
    (faulted 2).fltCode ≠ 0 ∧
    ((uxHolds 0 4).fltCode = 0 ∧ (0x69913C64 : Word).extractLsb' 28 4 ≠ (uxHolds 0 4).cfgCable) ∧
    (0x59913C64 : Word).extractLsb' 28 4 = (uxHolds 0 3).cfgCable ∧
    ([0x91, 0x3C, 0x64] : List Byte) = [(0x59913C64 : Word).extractLsb' 16 8, (0x59913C64 : Word).extractLsb' 8 8,
      (0x59913C64 : Word).extractLsb' 0 8].take (([0, 0, 2, 3, 3, 1, 2, 3, 3, 3, 3, 3, 2, 2, 3, 1] : List Nat).getD
        ((0x59913C64 : Word).extractLsb' 24 4).toNat 0) ∧
    4 < (uxHolds 0 3).uxFifo.size.val + ([0x91, 0x3C, 0x64] : List Byte).length ∧
    (uxHolds 0 1).uxFifo.size.val + ([0x91, 0x3C, 0x64] : List Byte).length ≤ 4 ∧
    (uxHolds 2 4).uxFifo.size.val + ([] : List Byte).length ≤ 4 := by decide

theorem witness_CinRowsPushTheirBytes :
    (uxHolds 0 4).fltCode = 0 ∧ (4 : Nibble) ≠ (uxHolds 0 4).cfgCable ∧ (5 : Nibble) = (uxHolds 0 4).cfgCable ∧
    (uxHolds 0 4).uxFifo.size.val + ([] : List Byte).length ≤ 4 ∧
    4 < (uxHolds 0 4).uxFifo.size.val + ([0x91] : List Byte).length := by decide

theorem witness_UsbAvailResult :
    (faulted 1).fltCode ≠ 0 ∧ (uxHolds 0 4).fltCode = 0 ∧ (0x80000000 : Word) ≠ 0 ∧ (0 : Word) = 0 := by decide

/-- Faulted; reserved bit; empty; one byte in the last slot; full. -/
theorem witness_UsbReadResult :
    (faulted 1).fltCode ≠ 0 ∧ (uxHolds 0 0).fltCode = 0 ∧ (1 : Word) ≠ 0 ∧ (uxHolds 0 0).uxFifo.size = 0 ∧
    (uxHolds 3 1).uxFifo.size ≠ 0 ∧ (uxHolds 1 4).uxFifo.size ≠ 0 := by decide

theorem witness_DrainedExtractorNeverOverflows :
    ((uxHolds 3 1).fltCode = 0 ∧ (uxHolds 3 1).uxFifo.size.val ≤ 1) ∧
    ∃ t, exec (.usbRecv 0x59913C64) (uxHolds 3 1) = .next t := ⟨by decide, _, rfl⟩

/-- Two packets, the second of another cable. -/
theorem witness_ExtractorOutputIsConcatenation :
    (uxHolds 3 0).fltCode = 0 ∧ (uxHolds 3 0).uxFifo.size.val = 0 ∧
    (recvDrained [0x59913C64, 0x69913C64, 0x5CC50700] (uxHolds 3 0)).map (·.1) = some [0x91, 0x3C, 0x64, 0xC5, 0x07] := by
  decide

theorem witness_UmpWordLayouts : ([1, 2, 3, 4, 5, 6] : List Byte).length ≤ 6 ∧ ([] : List Byte).length ≤ 6 := by decide

theorem witness_SysexStartResult :
    (inSysex .continuing 5 4).fltCode = 0 ∧ Instr.bsPush 0xF0 ∈ [Instr.midi1SysexStart, .bsPush 0xF0] := by decide

/-- Started and continuing; two slots free and one. -/
theorem witness_SysexEndResult :
    ((inSysex .started 5 2).fltCode = 0 ∧ (inSysex .started 5 2).trSxst ≠ .idle ∧
      ([0x30050102, 0x03040500] : List Word) = sxPacket (inSysex .started 5 2).cfgGroup params.sysexSingleStatus
        (inSysex .started 5 2).trSxcnt.val (inSysex .started 5 2).trSxbuf.toList ∧
      (inSysex .started 5 2).trFifo.size.val ≤ 2) ∧
    ((inSysex .continuing 0 3).fltCode = 0 ∧ (inSysex .continuing 0 3).trSxst ≠ .idle ∧
      ([0x30300000, 0] : List Word) = sxPacket (inSysex .continuing 0 3).cfgGroup 0x3
        (inSysex .continuing 0 3).trSxcnt.val (inSysex .continuing 0 3).trSxbuf.toList ∧
      2 < (inSysex .continuing 0 3).trFifo.size.val) := by decide

theorem witness_RealtimeResult :
    (trHolds 2 3).fltCode = 0 ∧ (trHolds 2 3).trFifo.size.val ≤ 3 ∧ (trHolds 0 4).fltCode = 0 ∧
    (trHolds 0 4).trFifo.size.val = 4 := by decide

theorem witness_StatusByteResult :
    (inSysex .started 5 4).fltCode = 0 ∧ (running 0x91 1 4).fltCode = 0 ∧ (running 0x91 1 4).trSxst = .idle := by decide

theorem witness_TuneRequestResult :
    ((inSysex .started 2 3).fltCode = 0 ∧ (inSysex .started 2 3).trFifo.size.val ≤ 3) ∧
    ((trHolds 0 4).fltCode = 0 ∧ (trHolds 0 4).trFifo.size.val = 4) := by decide

/-- The fifth byte; the sixth with two slots free, and with one. -/
theorem witness_SysexDataResult :
    ((inSysex .started 4 4).fltCode = 0 ∧ (inSysex .started 4 4).trSxst ≠ .idle ∧ (inSysex .started 4 4).trSxcnt.val + 1 < 6) ∧
    ((inSysex .started 5 2).trSxcnt.val = 5 ∧ (inSysex .started 5 2).trFifo.size.val ≤ 2) ∧
    ((inSysex .continuing 5 3).fltCode = 0 ∧ (inSysex .continuing 5 3).trSxst ≠ .idle ∧
      (inSysex .continuing 5 3).trSxcnt.val = 5 ∧ 2 < (inSysex .continuing 5 3).trFifo.size.val) := by decide

/-- No status; a reserved one; the ends of the ranges of count 1 and of count 2; a byte pending or not; room or none. -/
theorem witness_RunningDataResult :
    (State.reset.fltCode = 0 ∧ State.reset.trSxst = .idle ∧ State.reset.trRs = none) ∧
    ((running 0xF7 0 4).trRs = some 0xF7 ∧ (0xF7 : Byte) ∈ [(0xF4 : Byte), 0xF5, 0xF6, 0xF7]) ∧
    ((running 0xC0 0 3).trRs = some 0xC0 ∧ (0xC0 : Byte) ≤ 0xC0 ∧ (0xC0 : Byte) ≤ 0xDF ∧
      (running 0xC0 0 3).trFifo.size.val ≤ 3) ∧
    ((running 0xDF 0 4).trRs = some 0xDF ∧ (0xC0 : Byte) ≤ 0xDF ∧ (running 0xDF 0 4).trFifo.size.val = 4) ∧
    ((running 0xBF 0 4).trRs = some 0xBF ∧ (0x80 : Byte) ≤ 0xBF ∧ (running 0xBF 0 4).trNd = 0) ∧
    ((running 0xE0 1 3).trRs = some 0xE0 ∧ (0xE0 : Byte) ≤ 0xEF ∧ (running 0xE0 1 3).trNd = 1 ∧
      (running 0xE0 1 3).trFifo.size.val ≤ 3) ∧
    ((running 0xF2 1 4).fltCode = 0 ∧ (running 0xF2 1 4).trSxst = .idle ∧ (running 0xF2 1 4).trRs = some 0xF2 ∧
      (running 0xF2 1 4).trNd = 1 ∧ (running 0xF2 1 4).trFifo.size.val = 4) := by decide

/-- One word into the last slot; two words into one slot; no word into a full FIFO. -/
theorem witness_BsPushIsAllOrNothing :
    ((trHolds 0 3).fltCode = 0 ∧
      (trHolds 0 3).trFifo.size.val + (translateByte params 0xF8 (trHolds 0 3)).2.length ≤ 4) ∧
    ((inSysex .started 5 3).fltCode = 0 ∧
      4 < (inSysex .started 5 3).trFifo.size.val + (translateByte params 0x06 (inSysex .started 5 3)).2.length) ∧
    ((trHolds 0 4).fltCode = 0 ∧ (translateByte params 0x90 (trHolds 0 4)).2 = []) := by decide

theorem witness_DrainedTranslatorNeverOverflows :
    (translateByte params 0xF7 (inSysex .started 5 2)).2.length = 2 ∧ (inSysex .started 5 2).fltCode = 0 ∧
    (inSysex .started 5 2).trFifo.size.val ≤ 2 := by decide

/-- S-T2, at group 0. -/
theorem witness_DrainedHostPopsTheEmissions :
    (trHolds 3 0).fltCode = 0 ∧ (trHolds 3 0).trFifo.size.val = 0 ∧
    (pushDrained [0x91, 0x3C, 0x64, 0x40, 0x70] (trHolds 3 0)).map (·.1) = some [0x20913C64, 0x20914070] := by decide

theorem witness_BsPopResult :
    (faulted 1).fltCode ≠ 0 ∧ (trHolds 0 0).fltCode = 0 ∧ (1 : Word) ≠ 0 ∧ (trHolds 0 0).trFifo.size = 0 ∧
    (trHolds 3 1).trFifo.size ≠ 0 ∧ (trHolds 1 4).trFifo.size ≠ 0 := by decide

theorem witness_BsEmptyResult :
    (faulted 1).fltCode ≠ 0 ∧ (trHolds 0 4).fltCode = 0 ∧ (0x100 : Word) ≠ 0 ∧ (0 : Word) = 0 := by decide

theorem witness_BsResetResult :
    (faulted 1).fltCode ≠ 0 ∧ (inSysex .continuing 5 4).fltCode = 0 ∧ (2 : Word) ≠ 0 ∧ (0 : Word) = 0 := by decide

theorem witness_FifoPushResult : (tr 2 4).size.val = 4 ∧ (tr 2 3).size.val ≠ 4 ∧ (tr 0 0).size.val ≠ 4 := by decide

theorem witness_FifoPopAndClearResult : (tr 2 0).size.val = 0 ∧ (tr 3 1).size.val ≠ 0 ∧ (tr 3 4).size.val ≠ 0 := by decide

/-- Around the end of the slots. -/
theorem witness_FifoKeepsOrder :
    (tr 3 0).contents = [] ∧ runFifo (tr 3 0) [.push 1, .push 2, .pop, .push 3] =
      .ok ([1], { buf := #v[2, 3, 0x20F80000, 1], head := 0, size := 2 }) := by decide

/-- Two states with one view: the elements lie in other slots, and a stale `TR_D1` differs. -/
theorem witness_StaleStorageIsNeverObserved :
    ({ trHolds 3 1 with trD1 := 5 } : State).view = { State.reset with
      trFifo := { buf := #v[0, 0x20913C64, 0, 0], head := 1, size := 1 } : State }.view ∧
    ({ trHolds 3 1 with trD1 := 5 } : State) ≠ { State.reset with
      trFifo := { buf := #v[0, 0x20913C64, 0, 0], head := 1, size := 1 } } := by decide

theorem witness_UnitsAreIndependent :
    (∃ t, (withEvent (uxHolds 0 4) (.command (commandWord 0x20 0xF8))).port = .command (commandWord 0x20 0xF8) :: [] ∧
      step (withEvent (uxHolds 0 4) (.command (commandWord 0x20 0xF8))) = .next t ∧ opUnit 0x20 = some .translator) ∧
    (∃ t, (withEvent (trHolds 0 4) (.command (commandWord 0x12 0))).port = .command (commandWord 0x12 0) :: [] ∧
      step (withEvent (trHolds 0 4) (.command (commandWord 0x12 0))) = .next t ∧ opUnit 0x12 = some .extractor) ∧
    (∃ t, (withEvent (trHolds 0 4) (.command (commandWord 0x02 0))).port = .command (commandWord 0x02 0) :: [] ∧
      step (withEvent (trHolds 0 4) (.command (commandWord 0x02 0))) = .next t ∧ opUnit 0x02 = some .le7) :=
  ⟨⟨_, rfl, rfl, rfl⟩, ⟨_, rfl, rfl, rfl⟩, _, rfl, rfl, rfl⟩

theorem witness_QueriesAreIdempotent :
    (∃ t, Instr.usbAvail 0 ∈ [Instr.usbAvail 0, .bsEmpty 0, .le7Dec2 0, .le7Dec4 0] ∧
      exec (.usbAvail 0) (uxHolds 0 4) = .next t ∧ t.fltCode = 0) ∧
    (∃ t, Instr.bsEmpty 1 ∈ [Instr.usbAvail 1, .bsEmpty 1, .le7Dec2 1, .le7Dec4 1] ∧
      exec (.bsEmpty 1) State.reset = .next t ∧ t.fltCode ≠ 0) :=
  ⟨⟨_, by decide, rfl, by decide⟩, _, by decide, rfl, by decide⟩

theorem witness_SysexMessageFraming :
    (∀ b ∈ ([1, 0xF8, 2, 0x7F, 0xFF, 0, 5, 6, 7] : List Byte), b < 0x80 ∨ 0xF8 ≤ b) ∧
    ((0xF8, [0x20F80000]) : Byte × List Word) ∈ emissions params .reset (0xF0 :: [1, 0xF8] ++ [0xF7]) := by decide

/-- The ends of the status range, for count 2 and count 1. -/
theorem witness_RunningStatusRepeats :
    ((0x80 : Byte) ≤ 0x80 ∧ (0x80 : Byte) < 0xF7 ∧ need 0x80 = .two ∧
      ∀ q ∈ ([(0x3C, 0x64), (0x7F, 0)] : List (Byte × Byte)), q.1 < 0x80 ∧ q.2 < 0x80) ∧
    ((0x80 : Byte) ≤ 0xF3 ∧ (0xF3 : Byte) < 0xF7 ∧ need 0xF3 = .one ∧ ∀ d ∈ ([5, 0x7F] : List Byte), d < 0x80) :=
  ⟨⟨by decide, by decide, by decide, by simp⟩, by decide, by decide, by decide, by simp⟩

theorem witness_ResetTranslatorForgetsThePast : (inSysex .continuing 5 4).cfgGroup = (running 0x91 1 2).cfgGroup := by decide

theorem witness_AssembledWordsAreLegal :
    assemble (.usbRecv 0x29903C64) = some [0x1029903C64] ∧
    assemble (.bsSend [0xF0, 0x7E, 0xF7]) = some [0x20000000F0, 0x200000007E, 0x20000000F7] := by decide

theorem witness_PseudoInstructionsExpand : ([0x91] : List Byte) ≠ [] ∧ 1 ≤ 1 := by decide

end Sys2Proof.Tests
end

/-! SUPPORT. The obligations of 00_scope.md: the command port, the responses, the word layouts, and the units. -/

namespace Sys2Proof.Machine

/-! ### The command port (R7) -/

theorem step_command {s : State} {w : CommandWord} {rest : List HostEvent} (h : s.port = .command w :: rest) :
    step s = performCommand w { s with port := rest } := step_event h

theorem performCommand_decoded {w : CommandWord} {i : Instr} (h : decode (.cmd40 w) = .ok i) (s : State) :
    performCommand w s = exec i s := by
  simp only [performCommand, h]

theorem performCommand_undecoded {w : CommandWord} {e : DecodeError} (h : decode (.cmd40 w) = .error e) (s : State) :
    performCommand w s = rejectIllegal s := by
  simp only [performCommand, h]

/-- Settles O7: a step takes the word off the port and performs it. -/
theorem stepRunsDecodedInstruction : Obligations.StepRunsDecodedInstruction := by
  intro s w rest i hport hdec
  rw [step_command hport, performCommand_decoded hdec]

/-! ### Responses (R8) -/

theorem FaultCode.code_ne_zero (c : FaultCode) : c.code ≠ 0 := by
  cases c <;> decide

/-- The response of a command agrees with the fault register it leaves. -/
theorem CommandBody.response {s t : State} {body : Except FaultCode State} (hb : CommandBody s body)
    (h : runCommand s body = .next t) :
    (t.fltCode = 0 → t.resp = some .none ∨ ∃ v, t.resp = some (.val v)) ∧
      (t.fltCode ≠ 0 → t.resp = some (.faulted t.fltCode)) := by
  rcases runCommand_cases h with ⟨hs, rfl⟩ | ⟨hs, rfl⟩ | ⟨-, c, -, rfl⟩
  · exact ⟨fun h0 => absurd h0 hs, fun _ => rfl⟩
  · have hc : Commits s t := hb.commits t rfl
    exact ⟨fun _ => hc.resp, fun h0 => absurd (hc.fltCode.trans hs) h0⟩
  · exact ⟨fun h0 => absurd h0 c.code_ne_zero, fun _ => rfl⟩

/-- Settles O10: every command word is run by `runCommand`, each of whose three ends writes the response. -/
theorem everyCommandHasAResponse : Obligations.EveryCommandHasAResponse := by
  intro s w rest hport
  obtain ⟨body, hrun, hbody⟩ := performCommand_runCommand w { s with port := rest }
  obtain ⟨t, ht⟩ := runCommand_next { s with port := rest } body
  exact ⟨t, by rw [step_command hport, hrun, ht], hbody.response ht⟩

/-! ### Word layouts (R54, R55) -/

/-- A one-word message has the layout of a USB-MIDI packet: two nibbles, then three bytes (R52, R54). -/
theorem word1_eq_packetOf (p : Config.Params) (group : Nibble) (s a c : Byte) :
    word1 p group s a c = packetOf group (messageType p s) s a c := rfl

/-- The fields of the first word of a sysex7 packet: four nibbles, then two bytes (R55). -/
theorem sxWord0_fields (mt group st n : Nibble) (b0 b1 : Byte) :
    let w : Word := mt ++ group ++ st ++ n ++ b0 ++ b1
    w.extractLsb' 28 4 = mt ∧ w.extractLsb' 24 4 = group ∧ w.extractLsb' 20 4 = st ∧ w.extractLsb' 16 4 = n ∧
      w.extractLsb' 8 8 = b0 ∧ w.extractLsb' 0 8 = b1 := by
  simp (disch := decide) only [BitVec.extractLsb'_append_eq_of_le, BitVec.extractLsb'_append_eq_of_add_le,
    BitVec.extractLsb'_eq_self, Nat.reduceSub, and_self]

/-- The fields of its second word: four bytes (R55). -/
theorem sxWord1_fields (b2 b3 b4 b5 : Byte) :
    let w : Word := b2 ++ b3 ++ b4 ++ b5
    w.extractLsb' 24 8 = b2 ∧ w.extractLsb' 16 8 = b3 ∧ w.extractLsb' 8 8 = b4 ∧ w.extractLsb' 0 8 = b5 := by
  simp (disch := decide) only [BitVec.extractLsb'_append_eq_of_le, BitVec.extractLsb'_append_eq_of_add_le,
    BitVec.extractLsb'_eq_self, Nat.reduceSub, and_self]

/-- `B(i)` of a packet that holds all its bytes is the byte held at `i`, or 0 (R73). -/
theorem sxByte_length (held : List Byte) (i : Nat) : sxByte held.length held i = held.getD i 0 := by
  unfold sxByte
  split
  · rfl
  next h => simp [List.getD, List.getElem?_eq_none (Nat.le_of_not_lt h)]

/-- The nibble that counts at most six bytes. -/
theorem toNat_countNibble {n : Nat} (h : n ≤ 6) : (BitVec.ofNat 4 n).toNat = n := by
  rw [BitVec.toNat_ofNat]
  exact Nat.mod_eq_of_lt (by omega)

/-- A sysex7 packet of all the held bytes (R73). -/
theorem sxPacket_length (group st : Nibble) (held : List Byte) :
    sxPacket group st held.length held =
      [ (0x3#4) ++ group ++ st ++ BitVec.ofNat 4 held.length ++ held.getD 0 0 ++ held.getD 1 0,
        held.getD 2 0 ++ held.getD 3 0 ++ held.getD 4 0 ++ held.getD 5 0 ] := by
  simp only [sxPacket, sxByte_length]

/-- Settles O32: both layouts are appended fields; a one-word message shares its layout with a packet. -/
theorem umpWordLayouts : Obligations.UmpWordLayouts := by
  refine ⟨fun g s a c => ?_, fun g st held hlen => ?_, rfl, rfl, rfl, rfl, rfl, rfl⟩
  · rw [word1_eq_packetOf]
    exact ⟨packetOf_cn .., packetOf_cin .., packetOf_p0 .., packetOf_p1 .., packetOf_p2 ..⟩
  · obtain ⟨hmt, hgroup, hst, hn, hb0, hb1⟩ := sxWord0_fields 0x3 g st (BitVec.ofNat 4 held.length)
      (held.getD 0 0) (held.getD 1 0)
    have hcount := (congrArg BitVec.toNat hn).trans (toNat_countNibble hlen)
    exact ⟨_, _, sxPacket_length g st held, hmt, hgroup, hst, hcount, hb0, hb1, sxWord1_fields ..⟩

/-! ### Independence of the units (R3)

A command that neither reads nor writes a unit's state commutes with any overwriting of it. -/

/-- `s` with the extractor's state of `v` (R18, R19). -/
def State.withExtractorOf (v s : State) : State := { s with uxFifo := v.uxFifo, cfgCable := v.cfgCable }

/-- `s` with the translator's state of `v` (R18, R20). -/
def State.withTranslatorOf (v s : State) : State :=
  { s with
    cfgGroup := v.cfgGroup, trRs := v.trRs, trD1 := v.trD1, trNd := v.trNd, trSxst := v.trSxst, trSxcnt := v.trSxcnt,
    trSxbuf := v.trSxbuf, trFifo := v.trFifo }

@[simp] theorem State.withExtractorOf_trRs (v s : State) : (v.withExtractorOf s).trRs = s.trRs := rfl
@[simp] theorem State.withExtractorOf_trFifo (v s : State) : (v.withExtractorOf s).trFifo = s.trFifo := rfl
@[simp] theorem State.withTranslatorOf_uxFifo (v s : State) : (v.withTranslatorOf s).uxFifo = s.uxFifo := rfl

/-- A change of the state that leaves alone all that belongs to no unit: `FLT_CODE`, the response and the port. -/
structure KeepsShared (edit : State → State) : Prop where
  fltCode : ∀ s, (edit s).fltCode = s.fltCode
  reply : ∀ s r, (edit s).reply r = edit (s.reply r)
  raiseFault : ∀ s c, (edit s).raiseFault c = edit (s.raiseFault c)
  faultedReply : ∀ s, (edit s).faultedReply = edit s.faultedReply
  port : ∀ s, (edit s).port = s.port
  setPort : ∀ s events, { edit s with port := events } = edit { s with port := events }

theorem withExtractorOf_keepsShared (v : State) : KeepsShared v.withExtractorOf :=
  ⟨fun _ => rfl, fun _ _ => rfl, fun _ _ => rfl, fun _ => rfl, fun _ => rfl, fun _ _ => rfl⟩

theorem withTranslatorOf_keepsShared (v : State) : KeepsShared v.withTranslatorOf :=
  ⟨fun _ => rfl, fun _ _ => rfl, fun _ _ => rfl, fun _ => rfl, fun _ => rfl, fun _ _ => rfl⟩

/-- A command does the same before and after the change, which its next state carries. -/
def Ignores (edit : State → State) (command : State → Host.Outcome State Fault Refusal) : Prop :=
  ∀ s t, command s = .next t → command (edit s) = .next (edit t)

/-- The body of a command does the same before and after the change. -/
abbrev BodyIgnores (edit : State → State) (body : State → Except FaultCode State) : Prop :=
  Function.Semiconj body edit (Except.map edit)

/-- What a byte does before it is committed is the same before and after the change: the same words, and registers that
carry the change. -/
abbrev ByteIgnores (edit : State → State) (translated : State → Translated) : Prop :=
  Function.Semiconj translated edit (Prod.map edit id)

/-- A choice on what `f` leaves alone commutes with `f` when both its branches do. -/
theorem semiconj_ite {α β : Type} {f : α → α} {g : β → β} {c : α → Prop} [DecidablePred c] {x y : α → β}
    (hc : ∀ a, c (f a) ↔ c a) (hx : Function.Semiconj x f g) (hy : Function.Semiconj y f g) :
    Function.Semiconj (fun a => if c a then x a else y a) f g := by
  intro a
  by_cases h : c a
  · simp only [if_pos h, if_pos ((hc a).mpr h), hx a]
  · simp only [if_neg h, if_neg (mt (hc a).mp h), hy a]

section
variable {edit : State → State} {body : State → Except FaultCode State}

theorem BodyIgnores.toCommand (hb : BodyIgnores edit body) (hc : KeepsShared edit) :
    Ignores edit fun s => runCommand s (body s) := by
  intro s t h
  change runCommand (edit s) (body (edit s)) = .next (edit t)
  have hbody : body (edit s) = (body s).map edit := hb s
  rcases runCommand_cases h with ⟨hs, rfl⟩ | ⟨hs, ht⟩ | ⟨hs, c, he, rfl⟩
  · rw [runCommand_faulted (by rwa [hc.fltCode]), hc.faultedReply]
  · rw [hbody, ht]
    exact runCommand_ok ((hc.fltCode s).trans hs) _
  · rw [hbody, he, ← hc.raiseFault]
    exact runCommand_error ((hc.fltCode s).trans hs) c

theorem BodyIgnores.ofIllegal (edit : State → State) : BodyIgnores edit fun _ => .error .illegalCommand :=
  fun _ => rfl

theorem BodyIgnores.ofGuard (hb : BodyIgnores edit body) (reserved : Prop) [Decidable reserved] :
    BodyIgnores edit fun s => if reserved then .error .illegalCommand else body s :=
  semiconj_ite (fun _ => .rfl) (BodyIgnores.ofIllegal edit) hb

theorem BodyIgnores.ofReply (hc : KeepsShared edit) {r : State → Response} (hr : ∀ s, r (edit s) = r s) :
    BodyIgnores edit fun s => .ok (s.reply (r s)) := by
  intro s
  simp only [hr, hc.reply]; rfl

end

/-! #### The translator ignores the extractor -/

section
variable (v : State) (p : Config.Params) (b : Byte)

theorem sysexData_of_lt {b : Byte} {s : State} (h : s.trSxcnt.val + 1 < 6) :
    sysexData b s =
      ({ s with trSxbuf := s.trSxbuf.set s.trSxcnt.val b, trSxcnt := ⟨s.trSxcnt.val + 1, h⟩ }, []) :=
  dif_pos h

theorem sysexData_of_not_lt {b : Byte} {s : State} (h : ¬ s.trSxcnt.val + 1 < 6) :
    sysexData b s =
      ({ s with trSxbuf := s.trSxbuf.set s.trSxcnt.val b, trSxst := .continuing, trSxcnt := 0 },
        sxPacket s.cfgGroup (flushStatus s.trSxst) 6 (s.trSxbuf.set s.trSxcnt.val b).toList) :=
  dif_neg h

theorem sysexData_ignores_extractor : ByteIgnores v.withExtractorOf (sysexData b) := by
  intro s
  by_cases h : s.trSxcnt.val + 1 < 6
  · rw [sysexData_of_lt h, sysexData_of_lt (s := v.withExtractorOf s) h]; rfl
  · rw [sysexData_of_not_lt h, sysexData_of_not_lt (s := v.withExtractorOf s) h]; rfl

theorem statusData_ignores_extractor (st : Byte) : ByteIgnores v.withExtractorOf (statusData p st b) := by
  unfold statusData
  cases need st with
  | two => exact semiconj_ite (fun _ => .rfl) (fun _ => rfl) (fun _ => rfl)
  | _ => exact fun _ => rfl

theorem runningData_ignores_extractor : ByteIgnores v.withExtractorOf (runningData p b) := by
  intro s
  simp only [runningData, State.withExtractorOf_trRs]
  cases s.trRs with
  | none => rfl
  | some st => exact statusData_ignores_extractor v p b st s

theorem dataByte_ignores_extractor : ByteIgnores v.withExtractorOf (dataByte p b) :=
  semiconj_ite (fun _ => .rfl) (sysexData_ignores_extractor v b) (runningData_ignores_extractor v p b)

/-- No branch of `bs.push` reads or writes the extractor's state (R74). -/
theorem translateByte_ignores_extractor : ByteIgnores v.withExtractorOf (translateByte p b) := by
  have hstatus : ByteIgnores v.withExtractorOf (otherStatus p b) := fun _ => rfl
  have hrealtime : ByteIgnores v.withExtractorOf (realtime p b) := fun _ => rfl
  have hend : ByteIgnores v.withExtractorOf (sysexEnd p) := fun _ => rfl
  have hstart : ByteIgnores v.withExtractorOf sysexStart := fun _ => rfl
  exact semiconj_ite (fun _ => .rfl)
    (semiconj_ite (fun _ => .rfl) hstart <| semiconj_ite (fun _ => .rfl) hend <|
      semiconj_ite (fun _ => .rfl) hrealtime hstatus)
    (dataByte_ignores_extractor v p b)

theorem BodyIgnores.ofCommit {r : State → Translated} (hr : ByteIgnores v.withExtractorOf r) :
    BodyIgnores v.withExtractorOf fun s => commit s (r s) := by
  intro s
  simp only [commit, hr s, State.withExtractorOf_trFifo, Prod.map, id]
  cases s.trFifo.enqueue (r s).2 <;> rfl

theorem BodyIgnores.ofPop : BodyIgnores v.withExtractorOf popWord := by
  intro s
  simp only [popWord, State.withExtractorOf_trFifo]
  cases s.trFifo.pop <;> rfl

/-! #### The extractor ignores the translator -/

theorem BodyIgnores.ofReceive (cn : Nibble) (bytes : List Byte) :
    BodyIgnores v.withTranslatorOf (receive cn bytes) := by
  refine semiconj_ite (fun _ => .rfl) (fun _ => rfl) fun s => ?_
  simp only [State.withTranslatorOf_uxFifo]
  cases s.uxFifo.enqueue bytes <;> rfl

theorem BodyIgnores.ofRead : BodyIgnores v.withTranslatorOf readByte := by
  intro s
  simp only [readByte, State.withTranslatorOf_uxFifo]
  cases s.uxFifo.pop <;> rfl

end

/-! #### The commands of each unit -/

/-- The commands of a unit, with one operand (R44). -/
def CoreUnit.commands : CoreUnit → Word → List Instr
  | .le7, arg => [.le7Dec2 arg, .le7Dec4 arg]
  | .extractor, arg => [.usbRecv arg, .usbAvail arg, .usbRead arg]
  | .translator, arg => [.bsPush arg, .bsPop arg, .bsEmpty arg, .bsReset arg]

/-- `OP` selects a command of its unit (R44). -/
theorem opcodeMap_mem_commands {op : Byte} {u : CoreUnit} (h : opUnit op = some u) (arg : Word) :
    ∃ i ∈ u.commands arg, opcodeMap op arg = some i := by
  rcases opcodeMap_cases op arg with ⟨rfl, e⟩ | ⟨rfl, e⟩ | ⟨rfl, e⟩ | ⟨rfl, e⟩ | ⟨rfl, e⟩ | ⟨rfl, e⟩ | ⟨rfl, e⟩ |
    ⟨rfl, e⟩ | ⟨rfl, e⟩ | ⟨-, hop⟩
  pick_goal 10
  · simp only [List.mem_cons, List.not_mem_nil, or_false, not_or] at hop
    simp only [opUnit, hop, or_false, if_false, reduceCtorEq] at h
  all_goals
    cases h
    exact ⟨_, by simp [CoreUnit.commands], e⟩

/-- A command word performs a command of its unit, or is rejected as illegal. -/
theorem performCommand_of_unit {op : Byte} {u : CoreUnit} (h : opUnit op = some u) (arg : Word) :
    (∃ i ∈ u.commands arg, performCommand (commandWord op arg) = exec i) ∨
      performCommand (commandWord op arg) = rejectIllegal := by
  obtain ⟨i, hi, hmap⟩ := opcodeMap_mem_commands h arg
  have hdec := decode_commandWord op arg
  simp only [hmap] at hdec
  by_cases hwf : i.wellFormed
  · exact .inl ⟨i, hi, funext (performCommand_decoded (by rw [hdec, if_pos hwf]))⟩
  · exact .inr (funext (performCommand_undecoded (by rw [hdec, if_neg hwf])))

/-- An LE7 command ignores every change that keeps what the units share: it has no state (R18). -/
theorem le7_ignores {edit : State → State} (hc : KeepsShared edit) {arg : Word} {i : Instr}
    (hi : i ∈ CoreUnit.le7.commands arg) : Ignores edit (exec i) := by
  simp only [CoreUnit.commands, List.mem_cons, List.not_mem_nil, or_false] at hi
  rcases hi with rfl | rfl
  · exact ((BodyIgnores.ofReply hc fun _ => rfl).ofGuard _).toCommand hc
  · exact (BodyIgnores.ofReply hc fun _ => rfl).toCommand hc

theorem translator_ignores_extractor (v : State) {arg : Word} {i : Instr} (hi : i ∈ CoreUnit.translator.commands arg) :
    Ignores v.withExtractorOf (exec i) := by
  have hc := withExtractorOf_keepsShared v
  simp only [CoreUnit.commands, List.mem_cons, List.not_mem_nil, or_false] at hi
  rcases hi with rfl | rfl | rfl | rfl
  · exact ((BodyIgnores.ofCommit v (translateByte_ignores_extractor v params (argByte arg 0))).ofGuard _).toCommand hc
  · exact ((BodyIgnores.ofPop v).ofGuard _).toCommand hc
  · exact ((BodyIgnores.ofReply hc fun _ => rfl).ofGuard _).toCommand hc
  · have hreset : BodyIgnores v.withExtractorOf fun s => .ok (s.clearTranslator.reply .none) := fun _ => rfl
    exact (hreset.ofGuard _).toCommand hc

theorem extractor_ignores_translator (v : State) {arg : Word} {i : Instr} (hi : i ∈ CoreUnit.extractor.commands arg) :
    Ignores v.withTranslatorOf (exec i) := by
  have hc := withTranslatorOf_keepsShared v
  simp only [CoreUnit.commands, List.mem_cons, List.not_mem_nil, or_false] at hi
  rcases hi with rfl | rfl | rfl
  · exact (BodyIgnores.ofReceive v _ _).toCommand hc
  · exact ((BodyIgnores.ofReply hc fun _ => rfl).ofGuard _).toCommand hc
  · exact ((BodyIgnores.ofRead v).ofGuard _).toCommand hc

/-- A command word ignores what all the commands of its unit ignore: an illegal one looks at no unit at all. -/
theorem performCommand_ignores {edit : State → State} (hc : KeepsShared edit) {op : Byte} {u : CoreUnit}
    (h : opUnit op = some u) (arg : Word) (hu : ∀ i ∈ u.commands arg, Ignores edit (exec i)) :
    Ignores edit (performCommand (commandWord op arg)) := by
  rcases performCommand_of_unit h arg with ⟨i, hi, e⟩ | e
  · rw [e]; exact hu i hi
  · rw [e]; exact (BodyIgnores.ofIllegal edit).toCommand hc

theorem performCommand_ignores_extractor (v : State) {op : Byte}
    (h : opUnit op = some .translator ∨ opUnit op = some .le7) (arg : Word) :
    Ignores v.withExtractorOf (performCommand (commandWord op arg)) := by
  have hc := withExtractorOf_keepsShared v
  rcases h with hu | hu
  · exact performCommand_ignores hc hu arg fun _ => translator_ignores_extractor v
  · exact performCommand_ignores hc hu arg fun _ => le7_ignores hc

theorem performCommand_ignores_translator (v : State) {op : Byte}
    (h : opUnit op = some .extractor ∨ opUnit op = some .le7) (arg : Word) :
    Ignores v.withTranslatorOf (performCommand (commandWord op arg)) := by
  have hc := withTranslatorOf_keepsShared v
  rcases h with hu | hu
  · exact performCommand_ignores hc hu arg fun _ => extractor_ignores_translator v
  · exact performCommand_ignores hc hu arg fun _ => le7_ignores hc

/-- A step carries a change that the command word it performs ignores. -/
theorem step_of_ignores {edit : State → State} (hc : KeepsShared edit) {s t : State} {w : CommandWord}
    {rest : List HostEvent} (hw : Ignores edit (performCommand w)) (hport : s.port = .command w :: rest)
    (hstep : step s = .next t) : step (edit s) = .next (edit t) := by
  rw [step_command ((hc.port s).trans hport), hc.setPort]
  exact hw _ t ((step_command hport).symm.trans hstep)

/-- Settles O51: the commands of a unit, and the rejection of an illegal one, ignore the other unit's state. -/
theorem unitsAreIndependent : Obligations.UnitsAreIndependent := by
  intro s t op arg rest hport hstep
  constructor
  · intro hunit f c
    let v : State := { s with uxFifo := f, cfgCable := c }
    exact step_of_ignores (withExtractorOf_keepsShared v) (performCommand_ignores_extractor v hunit arg) hport hstep
  · intro hunit g rs d1 nd st cnt buf f
    let v : State := { s with
      cfgGroup := g, trRs := rs, trD1 := d1, trNd := nd, trSxst := st, trSxcnt := cnt, trSxbuf := buf, trFifo := f }
    exact step_of_ignores (withTranslatorOf_keepsShared v) (performCommand_ignores_translator v hunit arg) hport hstep

end Sys2Proof.Machine

/-! SUPPORT. The obligations of 10_state.md: configuration, the fault register, the invariants, and stale storage. -/

namespace Sys2Proof.Machine

/-! ### What a transaction can do -/

theorem step_reset {s : State} {group : Option Nibble} {cable : Nibble} {rest : List HostEvent}
    (h : s.port = .reset group cable :: rest) :
    step s = .next (({ s with port := rest } : State).globalReset group cable) := step_event h

/-- A step that is no reset waits or performs a command word. -/
theorem step_cases_of_no_reset {s t : State} (hno : ∀ group cable rest, s.port ≠ .reset group cable :: rest)
    (h : step s = .next t) : t = s ∨ ∃ w rest, performCommand w { s with port := rest } = .next t := by
  cases hport : s.port with
  | nil => rw [step_idle hport] at h; cases h; exact .inl rfl
  | cons e rest =>
    cases e with
    | command w => exact .inr ⟨w, rest, (step_command hport).symm.trans h⟩
    | reset group cable => exact absurd hport (hno group cable rest)

/-- The bodies of the nine commands of R44, and the rejection of an illegal command word. -/
inductive PortBody : (State → Except FaultCode State) → Prop where
  | illegal : PortBody fun _ => .error .illegalCommand
  | le7 (v : Word) : PortBody fun s => .ok (s.reply (.val v))
  | recv (cn : Nibble) (bytes : List Byte) : PortBody (receive cn bytes)
  | avail : PortBody fun s => .ok (s.reply (.val (boolValue s.uxAvailable)))
  | read : PortBody readByte
  | push (b : Byte) : PortBody fun s => commit s (translateByte params b s)
  | pop : PortBody popWord
  | empty : PortBody fun s => .ok (s.reply (.val (boolValue s.trEmpty)))
  | reset : PortBody fun s => .ok (s.clearTranslator.reply .none)

/-- The check of the reserved operand bits looks at no state. -/
theorem PortBody.ofGuard {body : State → Except FaultCode State} (h : PortBody body) (reserved : Prop)
    [Decidable reserved] : PortBody fun s => if reserved then .error .illegalCommand else body s := by
  split
  · exact .illegal
  · exact h

/-- Each command of the opcode map runs one of these bodies (R44). -/
theorem opcodeMap_portBody {op : Byte} {arg : Word} {i : Instr} (h : opcodeMap op arg = some i) :
    ∃ body, PortBody body ∧ ∀ s, exec i s = runCommand s (body s) := by
  rcases opcodeMap_cases op arg with ⟨-, e⟩ | ⟨-, e⟩ | ⟨-, e⟩ | ⟨-, e⟩ | ⟨-, e⟩ | ⟨-, e⟩ | ⟨-, e⟩ | ⟨-, e⟩ | ⟨-, e⟩ |
    ⟨e, -⟩ <;> cases e.symm.trans h
  · exact ⟨_, (PortBody.le7 _).ofGuard _, fun _ => rfl⟩
  · exact ⟨_, .le7 _, fun _ => rfl⟩
  · exact ⟨_, .recv _ _, fun _ => rfl⟩
  · exact ⟨_, PortBody.avail.ofGuard _, fun _ => rfl⟩
  · exact ⟨_, PortBody.read.ofGuard _, fun _ => rfl⟩
  · exact ⟨_, (PortBody.push _).ofGuard _, fun _ => rfl⟩
  · exact ⟨_, PortBody.pop.ofGuard _, fun _ => rfl⟩
  · exact ⟨_, PortBody.empty.ofGuard _, fun _ => rfl⟩
  · exact ⟨_, PortBody.reset.ofGuard _, fun _ => rfl⟩

/-- What decodes is an entry of the opcode map. -/
theorem opcodeMap_of_decode {w : CommandWord} {i : Instr} (h : decode (.cmd40 w) = .ok i) :
    opcodeMap (opField w) (argField w) = some i := by
  rw [← commandWord_fields w, decode_commandWord] at h
  split at h
  · cases h
  next e =>
    split at h <;> cases h
    exact e

/-- Every command word, legal or not, runs one of these bodies, the same one in every state. -/
theorem performCommand_portBody (w : CommandWord) :
    ∃ body, PortBody body ∧ ∀ s, performCommand w s = runCommand s (body s) := by
  cases hdec : decode (.cmd40 w) with
  | error e => exact ⟨_, .illegal, performCommand_undecoded hdec⟩
  | ok i =>
    obtain ⟨body, hbody, hexec⟩ := opcodeMap_portBody (opcodeMap_of_decode hdec)
    exact ⟨body, hbody, fun s => (performCommand_decoded hdec s).trans (hexec s)⟩

/-- Each of these bodies is a command's. -/
theorem PortBody.commandBody {body : State → Except FaultCode State} (h : PortBody body) (s : State) :
    CommandBody s (body s) := by
  cases h with
  | illegal => exact .ofIllegal s
  | le7 v => exact .ofReply s (.inr ⟨_, rfl⟩)
  | recv cn bytes => exact .ofReceive cn bytes s
  | avail => exact .ofReply s (.inr ⟨_, rfl⟩)
  | read => exact .ofRead s
  | push b => exact .ofCommit (translateByte_outside _ b s)
  | pop => exact .ofPop s
  | empty => exact .ofReply s (.inr ⟨_, rfl⟩)
  | reset => exact ⟨fun t e => by cases e; exact ⟨rfl, rfl, rfl, rfl, .inl rfl⟩, nofun⟩

/-- The three ends of a command word: ignored in the faulted state, committed, or a violation that `FLT_CODE` can
hold. -/
theorem performCommand_cases {w : CommandWord} {s t : State} (h : performCommand w s = .next t) :
    (s.fltCode ≠ 0 ∧ t = s.faultedReply) ∨ (∃ body, PortBody body ∧ body s = .ok t) ∨
      (s.fltCode = 0 ∧ ∃ c, c ≠ .configRange ∧ t = s.raiseFault c) := by
  obtain ⟨body, hbody, hrun⟩ := performCommand_portBody w
  rcases runCommand_cases ((hrun s).symm.trans h) with hignored | ⟨-, hok⟩ | ⟨hs, c, herr, ht⟩
  · exact .inl hignored
  · exact .inr (.inl ⟨body, hbody, hok⟩)
  · exact .inr (.inr ⟨hs, c, (hbody.commandBody s).raises c herr, ht⟩)

/-! ### Configuration (R15, R16) -/

/-- No command word writes `CFG_GROUP` or `CFG_CABLE`. -/
theorem performCommand_config {w : CommandWord} {s t : State} (h : performCommand w s = .next t) :
    t.cfgGroup = s.cfgGroup ∧ t.cfgCable = s.cfgCable := by
  rcases performCommand_cases h with ⟨-, rfl⟩ | ⟨body, hbody, hok⟩ | ⟨-, c, -, rfl⟩
  · exact ⟨rfl, rfl⟩
  · have hc := (hbody.commandBody s).commits t hok
    exact ⟨hc.cfgGroup, hc.cfgCable⟩
  · exact ⟨rfl, rfl⟩

/-- Settles O3: no command word writes the configuration, and the reset writes both registers. -/
theorem configurationFixedUntilReset : Obligations.ConfigurationFixedUntilReset := by
  intro s t h
  constructor
  · intro hno
    rcases step_cases_of_no_reset hno h with rfl | ⟨w, rest, hw⟩
    · exact ⟨rfl, rfl⟩
    · exact (performCommand_config hw :)
  · intro group cable rest hport
    cases (step_reset hport).symm.trans h
    exact ⟨rfl, rfl⟩

/-- Settles O4: the values below 16 are the nibbles. -/
theorem constructionChecksRange : Obligations.ConstructionChecksRange := by
  intro group cable
  constructor
  · rintro ⟨hg, hc⟩
    exact ⟨BitVec.ofNat 4 group, BitVec.ofNat 4 cable, Nat.mod_eq_of_lt hg, Nat.mod_eq_of_lt hc, if_pos ⟨hg, hc⟩⟩
  · intro hbig
    exact ⟨if_neg (by omega), rfl, rfl⟩

/-! ### The fault register (R17) -/

theorem FaultCode.code_of_ne_configRange {c : FaultCode} (h : c ≠ .configRange) :
    c.code = 1 ∨ c.code = 2 ∨ c.code = 3 := by
  cases c with
  | fifoOverflow => exact .inl rfl
  | fifoUnderflow => exact .inr (.inl rfl)
  | illegalCommand => exact .inr (.inr rfl)
  | configRange => exact absurd rfl h

/-- A command word leaves `FLT_CODE`, or records the violation it raised over 0. -/
theorem performCommand_fltCode {w : CommandWord} {s t : State} (h : performCommand w s = .next t) :
    t.fltCode = s.fltCode ∨
      (s.fltCode = 0 ∧ (t.fltCode = 1 ∨ t.fltCode = 2 ∨ t.fltCode = 3) ∧ t.resp = some (.faulted t.fltCode)) := by
  rcases performCommand_cases h with ⟨-, rfl⟩ | ⟨body, hbody, hok⟩ | ⟨hs, c, hne, rfl⟩
  · exact .inl rfl
  · exact .inl ((hbody.commandBody s).commits t hok).fltCode
  · exact .inr ⟨hs, FaultCode.code_of_ne_configRange hne, rfl⟩

theorem State.faultOut_iff (s : State) : s.faultOut = true ↔ s.fltCode ≠ 0 := bne_iff_ne

/-- Settles O13: fault entry writes the register only over 0, and only the reset clears it. -/
theorem faultRegisterHoldsFirstViolation : Obligations.FaultRegisterHoldsFirstViolation := by
  intro s t h
  refine ⟨fun hno => ?_, fun group cable rest hport => ?_, t.faultOut_iff, rfl⟩
  · rcases step_cases_of_no_reset hno h with rfl | ⟨w, rest, hw⟩
    · exact .inl rfl
    · exact (performCommand_fltCode hw :)
  · cases (step_reset hport).symm.trans h
    rfl

/-! ### The invariants (R17, R20, R22)

`Inv` speaks of the translator's registers and `FLT_CODE`, so an update of any other field keeps each clause as it
stands. -/

/-- The byte written at the end of the held ones is held after them. -/
theorem take_succ_set {α : Type} {n i : Nat} (v : Vector α n) (h : i < n) (b : α) :
    (v.set i b).toList.take (i + 1) = v.toList.take i ++ [b] := by
  rw [Vector.toList_set, List.take_add_one, List.take_set_of_le (Nat.le_refl i)]
  simp [h]

/-- A translator with nothing collected meets the invariants. -/
theorem State.Inv.ofCleared {s : State} (hrs : s.trRs = none) (hnd : s.trNd = 0) (hst : s.trSxst = .idle)
    (hcnt : s.trSxcnt = 0) (hflt : s.fltCode ≤ 3) : s.Inv where
  sysexClearsStatus h := absurd hst h
  pendingNeedsTwo h := by simp [hnd] at h
  idleHoldsNone _ := hcnt
  statusLegal st h := by simp [hrs] at h
  pendingIsData h := by simp [hnd] at h
  heldAreData := by simp [hcnt]
  faultLegal := hflt

/-- Settles O5: reset leaves nothing collected. -/
theorem resetSatisfiesInvariant : Obligations.ResetSatisfiesInvariant :=
  fun _ _ => .ofCleared rfl rfl rfl rfl (by decide : (0 : BitVec 3) ≤ 3)

section
variable {s : State}

theorem State.Inv.globalReset (s : State) (group : Option Nibble) (cable : Nibble) : (s.globalReset group cable).Inv :=
  .ofCleared rfl rfl rfl rfl (by decide : (0 : BitVec 3) ≤ 3)

theorem State.Inv.clearTranslator (h : s.Inv) : s.clearTranslator.Inv := .ofCleared rfl rfl rfl rfl h.faultLegal

theorem State.Inv.reply (h : s.Inv) (r : Response) : (s.reply r).Inv := { h with }
theorem State.Inv.faultedReply (h : s.Inv) : s.faultedReply.Inv := { h with }
theorem State.Inv.setPort (h : s.Inv) (events : List HostEvent) : ({ s with port := events } : State).Inv := { h with }
theorem State.Inv.setUxFifo (h : s.Inv) (f : Fifo Byte Config.uxCap) : ({ s with uxFifo := f } : State).Inv := { h with }
theorem State.Inv.setTrFifo (h : s.Inv) (f : Fifo Word Config.trCap) : ({ s with trFifo := f } : State).Inv := { h with }

theorem State.Inv.raiseFault (h : s.Inv) {c : FaultCode} (hc : c ≠ .configRange) : (s.raiseFault c).Inv :=
  { h with
    faultLegal := by
      rw [State.raiseFault_fltCode]
      rcases FaultCode.code_of_ne_configRange hc with e | e | e <;> rw [e] <;> decide }

/-! #### The branches of `bs.push` -/

variable {p : Config.Params} {b : Byte}

theorem State.Inv.sysexStart (h : s.Inv) : (sysexStart s).1.Inv where
  sysexClearsStatus _ := ⟨rfl, rfl⟩
  pendingNeedsTwo := nofun
  idleHoldsNone := nofun
  statusLegal := nofun
  pendingIsData := nofun
  heldAreData := nofun
  faultLegal := h.faultLegal

theorem State.Inv.sysexEnd (h : s.Inv) : (sysexEnd p s).1.Inv :=
  { h with sysexClearsStatus := fun hne => absurd rfl hne, idleHoldsNone := fun _ => rfl, heldAreData := nofun }

theorem State.Inv.otherStatus (h : s.Inv) (hb : 0x80 ≤ b ∧ b ≤ 0xF7 ∧ b ≠ 0xF0) : (otherStatus p b s).1.Inv where
  sysexClearsStatus hne := absurd rfl hne
  pendingNeedsTwo := nofun
  idleHoldsNone _ := rfl
  statusLegal st e := by cases e; exact hb
  pendingIsData := nofun
  heldAreData := nofun
  faultLegal := h.faultLegal

theorem State.Inv.sysexData (h : s.Inv) (hst : s.trSxst ≠ .idle) (hb : b < 0x80) : (sysexData b s).1.Inv := by
  by_cases hlt : s.trSxcnt.val + 1 < 6
  · rw [sysexData_of_lt hlt]
    have hheld : ∀ c ∈ s.trSxbuf.toList.take s.trSxcnt.val ++ [b], c < 0x80 := by
      simpa [or_imp, forall_and] using And.intro h.heldAreData hb
    exact { h with
      idleHoldsNone := fun e => absurd e hst
      heldAreData := by rwa [take_succ_set _ s.trSxcnt.isLt] }
  · rw [sysexData_of_not_lt hlt]
    exact { h with
      sysexClearsStatus := fun _ => h.sysexClearsStatus hst, idleHoldsNone := nofun, heldAreData := nofun }

/-- A data byte is pending only under a status that takes two (I2). -/
theorem State.Inv.statusData {st : Byte} (h : s.Inv) (hrs : s.trRs = some st) (hb : b < 0x80) :
    (statusData p st b s).1.Inv := by
  have hidle : ¬ s.trSxst ≠ .idle := fun hne => by simp [(h.sysexClearsStatus hne).1] at hrs
  unfold Machine.statusData
  split
  · exact h
  · exact h
  · exact h
  next htwo =>
    split
    · exact { h with
        sysexClearsStatus := fun hne => absurd hne hidle
        pendingNeedsTwo := fun _ => ⟨st, hrs, htwo⟩
        pendingIsData := fun _ => hb }
    · exact { h with
        sysexClearsStatus := fun hne => absurd hne hidle, pendingNeedsTwo := nofun, pendingIsData := nofun }

theorem State.Inv.dataByte (h : s.Inv) (hb : b < 0x80) : (dataByte p b s).1.Inv := by
  unfold Machine.dataByte
  split
  next hst => exact h.sysexData hst hb
  · unfold runningData
    split
    · exact h
    next hrs => exact h.statusData hrs hb

theorem State.Inv.translateByte (h : s.Inv) : (translateByte p b s).1.Inv := by
  rcases translateByte_branch p b s with e | ⟨e, -⟩ | e | ⟨e, hb⟩ | ⟨e, hb⟩ <;> rw [e]
  · exact h.sysexStart
  · exact h.sysexEnd
  · exact h
  · exact h.otherStatus hb
  · exact h.dataByte hb

end

/-! #### Every step -/

/-- What a command commits meets the invariants. -/
theorem PortBody.keepsInv {body : State → Except FaultCode State} (hbody : PortBody body) {s t : State} (h : s.Inv)
    (hok : body s = .ok t) : t.Inv := by
  cases hbody with
  | illegal => cases hok
  | le7 | avail | empty => cases hok; exact h.reply _
  | recv cn bytes =>
    by_cases hcn : cn = s.cfgCable
    · subst hcn
      rcases receive_cases bytes s with ⟨f, e, -⟩ | ⟨e, -⟩ <;> cases e.symm.trans hok
      exact (h.setUxFifo f).reply _
    · cases (receive_other hcn bytes).symm.trans hok
      exact h.reply _
  | read =>
    rcases readByte_cases s with ⟨b, f, e, -⟩ | ⟨e, -⟩ <;> cases e.symm.trans hok
    exact (h.setUxFifo f).reply _
  | push b =>
    rcases commit_cases s (translateByte params b s) with ⟨f, e, -⟩ | ⟨e, -⟩ <;> cases e.symm.trans hok
    exact (h.translateByte.setTrFifo f).reply _
  | pop =>
    rcases popWord_cases s with ⟨w, f, e, -⟩ | ⟨e, -⟩ <;> cases e.symm.trans hok
    exact (h.setTrFifo f).reply _
  | reset => cases hok; exact h.clearTranslator.reply _

/-- A command word keeps the invariants, whichever of its ends it comes to. -/
theorem performCommand_keepsInv {w : CommandWord} {s t : State} (h : s.Inv) (hw : performCommand w s = .next t) :
    t.Inv := by
  rcases performCommand_cases hw with ⟨-, rfl⟩ | ⟨body, hbody, hok⟩ | ⟨-, c, hc, rfl⟩
  · exact h.faultedReply
  · exact hbody.keepsInv h hok
  · exact h.raiseFault hc

/-- Settles O6: waiting changes nothing, a command word keeps the invariants, and a reset leaves nothing collected. -/
theorem stepKeepsInvariant : Obligations.StepKeepsInvariant := by
  intro s t h hstep
  by_cases hreset : ∃ group cable rest, s.port = .reset group cable :: rest
  · obtain ⟨group, cable, rest, hport⟩ := hreset
    cases (step_reset hport).symm.trans hstep
    exact .globalReset _ group cable
  · rcases step_cases_of_no_reset (by simpa using hreset) hstep with rfl | ⟨w, rest, hw⟩
    · exact h
    · exact performCommand_keepsInv (h.setPort rest) hw

/-! ### Stale storage (R23, R24, R31)

Two states with one view are treated field by field: each FIFO by its contents, the accumulator by the bytes it holds,
`TR_D1` only while it is pending. -/

/-- The two states show the host the same: their views, written out by the state's own fields. -/
structure SameView (s t : State) : Prop where
  cfgGroup : s.cfgGroup = t.cfgGroup
  cfgCable : s.cfgCable = t.cfgCable
  fltCode : s.fltCode = t.fltCode
  uxBytes : s.uxFifo.contents = t.uxFifo.contents
  trRs : s.trRs = t.trRs
  trNd : s.trNd = t.trNd
  trD1 : s.trNd ≠ 0 → s.trD1 = t.trD1
  trSxst : s.trSxst = t.trSxst
  trSxcnt : s.trSxcnt = t.trSxcnt
  held : s.trSxbuf.toList.take s.trSxcnt.val = t.trSxbuf.toList.take t.trSxcnt.val
  words : s.trFifo.contents = t.trFifo.contents
  resp : s.resp = t.resp
  port : s.port = t.port

/-- As many bytes are held as `TR_SXCNT` says (R20). -/
theorem State.held_length (s : State) : (s.trSxbuf.toList.take s.trSxcnt.val).length = s.trSxcnt.val := by
  rw [List.length_take, s.trSxbuf_length]
  omega

/-- What is pending decides `TR_ND`, and `TR_D1` where it is read (R20). -/
theorem pending_eq_iff {n m : Fin 2} {b c : Byte} :
    (if n = 0 then none else some b) = (if m = 0 then none else some c) ↔ n = m ∧ (n ≠ 0 → b = c) := by
  match n, m with
  | 0, 0 | 0, 1 | 1, 0 | 1, 1 => simp

/-- The counts that the view leaves out are decided by what it shows. -/
theorem sameView_iff (s t : State) : s.view = t.view ↔ SameView s t := by
  constructor
  · intro h
    simp only [State.view, View.mk.injEq, pending_eq_iff] at h
    obtain ⟨hgroup, hcable, hflt, hux, hrs, ⟨hnd, hd1⟩, hsx, hheld, htr, hresp, hport⟩ := h
    have hcnt : s.trSxcnt = t.trSxcnt := Fin.ext (by rw [← s.held_length, hheld, t.held_length])
    exact ⟨hgroup, hcable, hflt, hux, hrs, hnd, hd1, hsx, hcnt, hheld, htr, hresp, hport⟩
  · intro h
    simp only [State.view, View.mk.injEq, pending_eq_iff]
    exact ⟨h.cfgGroup, h.cfgCable, h.fltCode, h.uxBytes, h.trRs, ⟨h.trNd, h.trD1⟩, h.trSxst, h.held, h.words, h.resp,
      h.port⟩

/-- Two results of a command's body that show the host the same. -/
inductive SameResult : Except FaultCode State → Except FaultCode State → Prop where
  | ok {s t : State} : SameView s t → SameResult (.ok s) (.ok t)
  | error (c : FaultCode) : SameResult (.error c) (.error c)

/-- Two translations of a byte that show the host the same, and emit the same words. -/
structure SameTranslated (r q : Translated) : Prop where
  registers : SameView r.1 q.1
  out : r.2 = q.2

section
variable {s t : State}

/-! #### The named updates -/

theorem SameView.reply (h : SameView s t) (r : Response) : SameView (s.reply r) (t.reply r) := { h with resp := rfl }

theorem SameView.raiseFault (h : SameView s t) (c : FaultCode) : SameView (s.raiseFault c) (t.raiseFault c) :=
  { h with fltCode := rfl, resp := rfl }

theorem SameView.faultedReply (h : SameView s t) : SameView s.faultedReply t.faultedReply :=
  { h with resp := congrArg (fun c => some (Response.faulted c)) h.fltCode }

theorem SameView.setPort (h : SameView s t) (events : List HostEvent) :
    SameView { s with port := events } { t with port := events } := { h with port := rfl }

theorem SameView.setUxFifo (h : SameView s t) {f g : Fifo Byte Config.uxCap} (hfg : f.contents = g.contents) :
    SameView { s with uxFifo := f } { t with uxFifo := g } := { h with uxBytes := hfg }

theorem SameView.setTrFifo (h : SameView s t) {f g : Fifo Word Config.trCap} (hfg : f.contents = g.contents) :
    SameView { s with trFifo := f } { t with trFifo := g } := { h with words := hfg }

theorem SameView.clearTranslator (h : SameView s t) : SameView s.clearTranslator t.clearTranslator :=
  { h with
    trRs := rfl, trNd := rfl, trD1 := fun hne => absurd rfl hne, trSxst := rfl, trSxcnt := rfl, held := rfl
    words := by simp }

theorem SameView.globalReset (h : SameView s t) (group : Option Nibble) (cable : Nibble) :
    SameView (s.globalReset group cable) (t.globalReset group cable) :=
  { h.clearTranslator with
    cfgGroup := rfl, cfgCable := rfl, fltCode := rfl, resp := rfl
    uxBytes := by simp }

/-! #### The FIFO component -/

/-- Whether the elements fit, and what is then held, depends on the contents alone (R24, R29). -/
theorem Fifo.enqueue_of_contents_eq {α : Type} {n : Nat} {f g : Fifo α n} (h : f.contents = g.contents) (vs : List α) :
    (∃ f' g', f.enqueue vs = .ok f' ∧ g.enqueue vs = .ok g' ∧ f'.contents = g'.contents) ∨
      ∃ c, f.enqueue vs = .error c ∧ g.enqueue vs = .error c := by
  rcases f.enqueue_cases vs with ⟨f', hf, hfc, hfl⟩ | ⟨hf, hfl⟩ <;>
    rcases g.enqueue_cases vs with ⟨g', hg, hgc, hgl⟩ | ⟨hg, hgl⟩ <;> rw [h] at hfl
  · exact .inl ⟨f', g', hf, hg, by rw [hfc, hgc, h]⟩
  · omega
  · omega
  · exact .inr ⟨_, hf, hg⟩

/-- So does what is popped, and what is held after it (R24, R30). -/
theorem Fifo.pop_of_contents_eq {α : Type} {n : Nat} {f g : Fifo α n} (h : f.contents = g.contents) :
    (∃ v f' g', f.pop = .ok (v, f') ∧ g.pop = .ok (v, g') ∧ f'.contents = g'.contents) ∨
      ∃ c, f.pop = .error c ∧ g.pop = .error c := by
  have hsize : f.size.val = g.size.val := by rw [← f.contents_length, h, g.contents_length]
  by_cases hf : f.size.val = 0
  · exact .inr ⟨_, Fifo.pop_empty hf, Fifo.pop_empty (hsize ▸ hf)⟩
  · obtain ⟨v, f', hfp, hfc⟩ := Fifo.pop_ok hf
    obtain ⟨u, g', hgp, hgc⟩ := Fifo.pop_ok (hsize ▸ hf)
    obtain ⟨rfl, hrest⟩ := List.cons.inj (hfc.symm.trans (h.trans hgc))
    exact .inl ⟨v, f', g', hfp, hgp, hrest⟩

theorem Fifo.isEmpty_of_contents_eq {α : Type} {n : Nat} {f g : Fifo α n} (h : f.contents = g.contents) :
    f.isEmpty = g.isEmpty := by
  rw [Bool.eq_iff_iff, f.isEmpty_iff, g.isEmpty_iff, h]

/-! #### The bodies of the extractor -/

theorem SameView.receive (h : SameView s t) (cn : Nibble) (bytes : List Byte) :
    SameResult (receive cn bytes s) (receive cn bytes t) := by
  have hother : (cn ≠ t.cfgCable) = (cn ≠ s.cfgCable) := by rw [h.cfgCable]
  simp only [Machine.receive, hother]
  split
  · exact .ok (h.reply _)
  · rcases Fifo.enqueue_of_contents_eq h.uxBytes bytes with ⟨f, g, hf, hg, hfg⟩ | ⟨c, hf, hg⟩ <;> rw [hf, hg]
    · exact .ok ((h.setUxFifo hfg).reply _)
    · exact .error c

theorem SameView.readByte (h : SameView s t) : SameResult (readByte s) (readByte t) := by
  unfold Machine.readByte
  rcases Fifo.pop_of_contents_eq h.uxBytes with ⟨b, f, g, hf, hg, hfg⟩ | ⟨c, hf, hg⟩ <;> rw [hf, hg]
  · exact .ok ((h.setUxFifo hfg).reply _)
  · exact .error c

theorem SameView.uxAvailable (h : SameView s t) : s.uxAvailable = t.uxAvailable :=
  congrArg not (Fifo.isEmpty_of_contents_eq h.uxBytes)

/-! #### The bodies of the translator -/

theorem SameView.trEmpty (h : SameView s t) : s.trEmpty = t.trEmpty := Fifo.isEmpty_of_contents_eq h.words

theorem SameView.popWord (h : SameView s t) : SameResult (popWord s) (popWord t) := by
  unfold Machine.popWord
  rcases Fifo.pop_of_contents_eq h.words with ⟨w, f, g, hf, hg, hfg⟩ | ⟨c, hf, hg⟩ <;> rw [hf, hg]
  · exact .ok ((h.setTrFifo hfg).reply _)
  · exact .error c

theorem SameView.commit (h : SameView s t) {r q : Translated} (hrq : SameTranslated r q) :
    SameResult (commit s r) (commit t q) := by
  unfold Machine.commit
  rw [hrq.out]
  rcases Fifo.enqueue_of_contents_eq h.words q.2 with ⟨f, g, hf, hg, hfg⟩ | ⟨c, hf, hg⟩ <;> rw [hf, hg]
  · exact .ok ((hrq.registers.setTrFifo hfg).reply _)
  · exact .error c

variable (p : Config.Params) (b : Byte)

/-- A packet of `n` bytes shows only the first `n` of the accumulator (R73). -/
theorem sxPacket_take (group st : Nibble) (n : Nat) (buf : List Byte) :
    sxPacket group st n (buf.take n) = sxPacket group st n buf := by
  have hbyte (i : Nat) : sxByte n (buf.take n) i = sxByte n buf i := by
    unfold sxByte
    split
    next hi => simp [List.getD, hi]
    · rfl
  simp only [sxPacket, hbyte]

theorem SameView.sysexStart (h : SameView s t) : SameTranslated (sysexStart s) (sysexStart t) where
  registers :=
    { h with trRs := rfl, trNd := rfl, trD1 := fun hne => absurd rfl hne, trSxst := rfl, trSxcnt := rfl, held := rfl }
  out := rfl

theorem SameView.sysexEnd (h : SameView s t) : SameTranslated (sysexEnd p s) (sysexEnd p t) where
  registers := { h with trSxst := rfl, trSxcnt := rfl, held := rfl }
  out := by
    simp only [Machine.sysexEnd]
    rw [← sxPacket_take, h.held, h.cfgGroup, h.trSxst, h.trSxcnt, sxPacket_take]

theorem SameView.realtime (h : SameView s t) : SameTranslated (realtime p b s) (realtime p b t) where
  registers := h
  out := by simp only [Machine.realtime, h.cfgGroup]

theorem SameView.otherStatus (h : SameView s t) : SameTranslated (otherStatus p b s) (otherStatus p b t) where
  registers :=
    { h with trRs := rfl, trNd := rfl, trD1 := fun hne => absurd rfl hne, trSxst := rfl, trSxcnt := rfl, held := rfl }
  out := by simp only [Machine.otherStatus, h.cfgGroup]

/-- With one more byte the two accumulators still hold the same (R84). -/
theorem SameView.held_set (h : SameView s t) :
    (s.trSxbuf.set s.trSxcnt.val b).toList.take (s.trSxcnt.val + 1) =
      (t.trSxbuf.set t.trSxcnt.val b).toList.take (t.trSxcnt.val + 1) := by
  rw [take_succ_set _ s.trSxcnt.isLt, take_succ_set _ t.trSxcnt.isLt, h.held]

theorem SameView.sysexData (h : SameView s t) : SameTranslated (sysexData b s) (sysexData b t) := by
  have hcnt : s.trSxcnt.val = t.trSxcnt.val := congrArg Fin.val h.trSxcnt
  by_cases hlt : s.trSxcnt.val + 1 < 6
  · rw [sysexData_of_lt hlt, sysexData_of_lt (hcnt ▸ hlt)]
    exact ⟨{ h with trSxcnt := by simp only [hcnt], held := h.held_set b }, rfl⟩
  · rw [sysexData_of_not_lt hlt, sysexData_of_not_lt (hcnt ▸ hlt)]
    refine ⟨{ h with trSxst := rfl, trSxcnt := rfl, held := rfl }, ?_⟩
    have hbuf := h.held_set b
    rw [show s.trSxcnt.val + 1 = 6 by omega, show t.trSxcnt.val + 1 = 6 by omega] at hbuf
    simp only
    rw [← sxPacket_take, h.cfgGroup, h.trSxst, hbuf, sxPacket_take]

theorem SameView.statusData (h : SameView s t) (st : Byte) :
    SameTranslated (statusData p st b s) (statusData p st b t) := by
  unfold Machine.statusData
  split
  · exact ⟨h, rfl⟩
  · exact ⟨h, rfl⟩
  · exact ⟨h, by simp only [h.cfgGroup]⟩
  · rw [← h.trNd]
    split
    · exact ⟨{ h with trNd := rfl, trD1 := fun _ => rfl }, rfl⟩
    next hnd =>
      exact ⟨{ h with trNd := rfl, trD1 := fun hne => absurd rfl hne }, by simp only [h.cfgGroup, h.trD1 hnd]⟩

theorem SameView.runningData (h : SameView s t) : SameTranslated (runningData p b s) (runningData p b t) := by
  unfold Machine.runningData
  rw [h.trRs]
  cases t.trRs with
  | none => exact ⟨h, rfl⟩
  | some st => exact h.statusData p b st

theorem SameView.dataByte (h : SameView s t) : SameTranslated (dataByte p b s) (dataByte p b t) := by
  unfold Machine.dataByte
  rw [h.trSxst]
  split
  · exact h.sysexData b
  · exact h.runningData p b

/-- No branch of `bs.push` looks at stale storage (R74). -/
theorem SameView.translateByte (h : SameView s t) : SameTranslated (translateByte p b s) (translateByte p b t) := by
  unfold Machine.translateByte
  rw [h.trSxst]
  split
  · split
    · exact h.sysexStart
    · split
      · exact h.sysexEnd p
      · split
        · exact h.realtime p b
        · exact h.otherStatus p b
  · exact h.dataByte p b

/-! #### Every step -/

theorem PortBody.sameResult {body : State → Except FaultCode State} (hbody : PortBody body) (h : SameView s t) :
    SameResult (body s) (body t) := by
  cases hbody with
  | illegal => exact .error _
  | le7 v => exact .ok (h.reply _)
  | recv cn bytes => exact h.receive cn bytes
  | avail => simp only [h.uxAvailable]; exact .ok (h.reply _)
  | read => exact h.readByte
  | push b => exact h.commit (h.translateByte params b)
  | pop => exact h.popWord
  | empty => simp only [h.trEmpty]; exact .ok (h.reply _)
  | reset => exact .ok (h.clearTranslator.reply _)

theorem SameView.runCommand (h : SameView s t) {x y : Except FaultCode State} (hxy : SameResult x y) :
    ∃ s' t', runCommand s x = .next s' ∧ runCommand t y = .next t' ∧ SameView s' t' := by
  by_cases hs : s.fltCode = 0
  · have ht : t.fltCode = 0 := h.fltCode.symm.trans hs
    cases hxy with
    | ok hst => exact ⟨_, _, runCommand_ok hs _, runCommand_ok ht _, hst⟩
    | error c => exact ⟨_, _, runCommand_error hs c, runCommand_error ht c, h.raiseFault c⟩
  · have ht : t.fltCode ≠ 0 := h.fltCode ▸ hs
    exact ⟨_, _, runCommand_faulted hs x, runCommand_faulted ht y, h.faultedReply⟩

theorem SameView.performCommand (h : SameView s t) (w : CommandWord) :
    ∃ s' t', performCommand w s = .next s' ∧ performCommand w t = .next t' ∧ SameView s' t' := by
  obtain ⟨body, hbody, hrun⟩ := performCommand_portBody w
  rw [hrun, hrun]
  exact h.runCommand (hbody.sameResult h)

theorem SameView.step (h : SameView s t) : ∃ s' t', step s = .next s' ∧ step t = .next t' ∧ SameView s' t' := by
  cases hport : s.port with
  | nil => exact ⟨s, t, step_idle hport, step_idle (h.port.symm.trans hport), h⟩
  | cons e rest =>
    rw [step_event hport, step_event (h.port.symm.trans hport)]
    cases e with
    | command w => exact (h.setPort rest).performCommand w
    | reset group cable => exact ⟨_, _, rfl, rfl, (h.setPort rest).globalReset group cable⟩

end

/-- Settles O50: a step treats alike two states that agree on all the view shows, and leaves them so. -/
theorem staleStorageIsNeverObserved : Obligations.StaleStorageIsNeverObserved := by
  intro s t h
  obtain ⟨s', t', hs, ht, hview⟩ := ((sameView_iff s t).mp h).step
  exact ⟨s', t', hs, ht, (sameView_iff s' t').mpr hview⟩

end Sys2Proof.Machine

/-! SUPPORT. The obligations of 20_memory.md: the FIFO component, and the queries that a host may repeat. -/

namespace Sys2Proof.Machine

/-! ### The FIFO component (R25 to R32) -/

section
variable {α : Type} {n : Nat} {f g : Fifo α n} {v : α}

/-- `FifoPush` with a free slot, written out (R29). -/
theorem Fifo.push_of_lt (v : α) (h : f.size.val < n) :
    f.push v = .ok { f with
      buf := f.buf.set (f.slot f.size.val).val v, size := ⟨f.size.val + 1, Nat.succ_lt_succ h⟩ } := dif_pos h

/-- `FifoPop` of a FIFO that holds something, written out (R30). -/
theorem Fifo.pop_of_ne_zero (h : f.size.val ≠ 0) :
    f.pop = .ok (f.buf[f.head], { f with
      head := f.slot 1, size := ⟨f.size.val - 1, Nat.lt_of_le_of_lt (Nat.sub_le _ _) f.size.isLt⟩ }) := if_neg h

/-- A write to the slot `k` places after the oldest element changes no other slot (R26). -/
theorem Fifo.getElem_set_slot (f : Fifo α n) (k : Nat) (v : α) (i : Fin n) :
    (f.buf.set (f.slot k).val v)[i] = if i.val = (f.head.val + k) % n then v else f.buf[i] := by
  simp only [Fin.getElem_fin, Vector.getElem_set, eq_comm, Fifo.slot]

theorem Fifo.push_contents (h : f.push v = .ok g) : g.contents = f.contents ++ [v] := by
  rcases Nat.lt_or_eq_of_le (Nat.le_of_lt_succ f.size.isLt) with hfree | hfull
  · obtain ⟨g', hg', hc, -⟩ := Fifo.push_ok v hfree
    cases hg'.symm.trans h
    exact hc
  · cases (Fifo.push_full v hfull).symm.trans h

/-! #### Sequences of operations -/

variable {ops : List (FifoOp α)} {vs : List α}

theorem runFifo_push (h : runFifo f (.push v :: ops) = .ok (vs, g)) :
    ∃ f', f.push v = .ok f' ∧ runFifo f' ops = .ok (vs, g) := by
  rw [runFifo] at h
  split at h
  next f' hpush => exact ⟨f', hpush, h⟩
  · cases h

theorem runFifo_pop (h : runFifo f (.pop :: ops) = .ok (vs, g)) :
    ∃ v f' rest, f.pop = .ok (v, f') ∧ runFifo f' ops = .ok (rest, g) ∧ vs = v :: rest := by
  rw [runFifo] at h
  split at h
  next v f' hpop =>
    split at h
    next rest g' hrun => cases h; exact ⟨v, f', rest, hpop, hrun, rfl⟩
    · cases h
  · cases h

/-- What leaves the FIFO, followed by what it still holds, is what it held, followed by what entered. -/
theorem runFifo_keeps_order (h : runFifo f ops = .ok (vs, g)) :
    vs ++ g.contents = f.contents ++ pushedValues ops := by
  induction ops generalizing f vs with
  | nil => cases h; simp [pushedValues]
  | cons op ops ih =>
    cases op with
    | push v =>
      obtain ⟨f', hpush, hrun⟩ := runFifo_push h
      rw [ih hrun, Fifo.push_contents hpush, pushedValues, List.append_assoc, List.singleton_append]
    | pop =>
      obtain ⟨v, f', rest, hpop, hrun, rfl⟩ := runFifo_pop h
      rw [List.cons_append, ih hrun, Fifo.pop_contents hpop, pushedValues, List.cons_append]

/-- Every pop that does not fault gives one value. -/
theorem runFifo_length (h : runFifo f ops = .ok (vs, g)) : vs.length = popCount ops := by
  induction ops generalizing f vs with
  | nil => cases h; rfl
  | cons op ops ih =>
    cases op with
    | push v =>
      obtain ⟨f', -, hrun⟩ := runFifo_push h
      exact ih hrun
    | pop =>
      obtain ⟨v, f', rest, -, hrun, rfl⟩ := runFifo_pop h
      exact congrArg Nat.succ (ih hrun)

end

/-- Settles O47: a FIFO that is not full has a free slot, and the write to it changes no other. -/
theorem fifoPushResult : Obligations.FifoPushResult := by
  intro n f v
  refine ⟨Fifo.push_full v, fun hne => ?_⟩
  have hfree : f.size.val < n := Nat.lt_of_le_of_ne (Nat.le_of_lt_succ f.size.isLt) hne
  exact ⟨_, Fifo.push_of_lt v hfree, rfl, rfl, f.getElem_set_slot f.size.val v⟩

/-- Settles O48: `FifoPop` and `FifoClear` write `HEAD` and `SIZE` only. -/
theorem fifoPopAndClearResult : Obligations.FifoPopAndClearResult := by
  intro n f
  refine ⟨Fifo.pop_empty, fun hne => ?_, rfl, rfl, rfl⟩
  exact ⟨_, Fifo.pop_of_ne_zero hne, rfl, rfl, Nat.sub_add_cancel (Nat.pos_of_ne_zero hne)⟩

/-- Settles O49: the order and the number of pops hold from any FIFO; from an empty one they are the statement. -/
theorem fifoKeepsOrder : Obligations.FifoKeepsOrder := by
  intro n f g ops popped hempty hrun
  have horder : popped ++ g.contents = pushedValues ops := by
    rw [runFifo_keeps_order hrun, hempty, List.nil_append]
  have hpops := runFifo_length hrun
  refine ⟨⟨g.contents, horder⟩, horder, hpops, ?_⟩
  rw [← horder, List.length_append, Fifo.contents_length, hpops, Nat.add_comm]

/-! ### Queries (R37) -/

theorem State.reply_reply (s : State) (r q : Response) : (s.reply r).reply q = s.reply q := rfl

/-- A command's body that answers a value which no response changes, or is illegal whatever the state. -/
inductive QueryBody : (State → Except FaultCode State) → Prop where
  | answer (value : State → Word) (h : ∀ s r, value (s.reply r) = value s) :
      QueryBody fun s => .ok (s.reply (.val (value s)))
  | illegal : QueryBody fun _ => .error .illegalCommand

theorem QueryBody.ofGuard {body : State → Except FaultCode State} (h : QueryBody body) (reserved : Prop)
    [Decidable reserved] : QueryBody fun s => if reserved then .error .illegalCommand else body s := by
  by_cases hr : reserved
  · simpa only [if_pos hr] using .illegal
  · simpa only [if_neg hr] using h

/-- The four queries of R37 are commands with such a body. -/
theorem exec_queryBody {arg : Word} {i : Instr}
    (hi : i ∈ [Instr.usbAvail arg, .bsEmpty arg, .le7Dec2 arg, .le7Dec4 arg]) :
    ∃ body, QueryBody body ∧ ∀ s, exec i s = runCommand s (body s) := by
  simp only [List.mem_cons, List.not_mem_nil, or_false] at hi
  rcases hi with rfl | rfl | rfl | rfl
  · exact ⟨_, .ofGuard (.answer (fun s => boolValue s.uxAvailable) fun _ _ => rfl) _, fun s => exec_usbAvail s arg⟩
  · exact ⟨_, .ofGuard (.answer (fun s => boolValue s.trEmpty) fun _ _ => rfl) _, fun s => exec_bsEmpty s arg⟩
  · exact ⟨_, .ofGuard (.answer (fun _ => le7Value2 arg) fun _ _ => rfl) _, fun s => exec_le7Dec2 s arg⟩
  · exact ⟨_, .answer (fun _ => le7Value4 arg) fun _ _ => rfl, fun s => exec_le7Dec4 s arg⟩

/-- The response that records a fault is the one every later command repeats (R96). -/
theorem runCommand_raiseFault (s : State) (c : FaultCode) (body : Except FaultCode State) :
    runCommand (s.raiseFault c) body = .next (s.raiseFault c) := runCommand_faulted c.code_ne_zero body

/-- A query that commits leaves a state in which it commits that same state again. -/
theorem QueryBody.repeats {body : State → Except FaultCode State} (hbody : QueryBody body) {s t : State}
    (h : body s = .ok t) : body t = .ok t ∧ t = { s with resp := t.resp } := by
  cases hbody with
  | answer value hvalue =>
    cases h
    exact ⟨by simp only [hvalue, State.reply_reply], rfl⟩
  | illegal => cases h

/-- Settles O52: each end of a query is one that repeating it comes to again. -/
theorem queriesAreIdempotent : Obligations.QueriesAreIdempotent := by
  intro s t arg i hi h
  obtain ⟨body, hbody, hexec⟩ := exec_queryBody hi
  rw [hexec] at h ⊢
  rcases runCommand_cases h with ⟨hs, rfl⟩ | ⟨hs, hok⟩ | ⟨-, c, -, rfl⟩
  · exact ⟨runCommand_faulted hs _, fun hflt => absurd hflt hs⟩
  · obtain ⟨hagain, hframe⟩ := hbody.repeats hok
    have ht : t.fltCode = 0 := by rw [hframe]; exact hs
    exact ⟨by rw [hagain, runCommand_ok ht], fun _ => hframe⟩
  · exact ⟨runCommand_raiseFault s c _, fun hflt => absurd hflt c.code_ne_zero⟩

end Sys2Proof.Machine

/-! SUPPORT. The obligations of 30_encoding.md: the decoder and the encoder, illegal commands, the operand classes, and
assembly. -/

namespace Sys2Proof.Machine

/-! ### Command words (R43, R44) -/

/-- A command word decodes to its opcode-map entry, when that entry's reserved bits are 0. -/
theorem decode_commandWord_eq_ok_iff {op : Byte} {arg : Word} {i : Instr} :
    decode (.cmd40 (commandWord op arg)) = .ok i ↔ opcodeMap op arg = some i ∧ i.WellFormed := by
  rw [decode_commandWord]
  cases opcodeMap op arg with
  | none => simp
  | some j =>
    by_cases hj : j.WellFormed
    · simp only [if_pos hj, Except.ok.injEq, Option.some.injEq]
      exact ⟨fun e => ⟨e, e ▸ hj⟩, fun h => h.1⟩
    · simp only [if_neg hj, reduceCtorEq, Option.some.injEq, false_iff]
      rintro ⟨rfl, hi⟩
      exact hj hi

/-- The encoder writes the `OP` that the opcode map reads. -/
theorem encode_of_opcodeMap {op : Byte} {arg : Word} {i : Instr} (h : opcodeMap op arg = some i) :
    encode i = .cmd40 (commandWord op arg) := by
  rcases opcodeMap_cases op arg with ⟨rfl, e⟩ | ⟨rfl, e⟩ | ⟨rfl, e⟩ | ⟨rfl, e⟩ | ⟨rfl, e⟩ | ⟨rfl, e⟩ | ⟨rfl, e⟩ |
    ⟨rfl, e⟩ | ⟨rfl, e⟩ | ⟨e, -⟩ <;> cases e.symm.trans h
  all_goals rfl

/-- `LegalCommand` says, without the decoder, that the opcode map has a well-formed entry. -/
theorem legalCommand_iff (op : Byte) (arg : Word) :
    LegalCommand op arg ↔ ∃ i, opcodeMap op arg = some i ∧ i.WellFormed := by
  rcases opcodeMap_cases op arg with ⟨rfl, e⟩ | ⟨rfl, e⟩ | ⟨rfl, e⟩ | ⟨rfl, e⟩ | ⟨rfl, e⟩ | ⟨rfl, e⟩ | ⟨rfl, e⟩ |
    ⟨rfl, e⟩ | ⟨rfl, e⟩ | ⟨e, hop⟩
  pick_goal 10
  · simp only [List.mem_cons, List.not_mem_nil, or_false, not_or] at hop
    simp only [LegalCommand, e, hop, reduceCtorEq, false_and, or_self, exists_false]
  all_goals
    simp only [e, Option.some.injEq, exists_eq_left']
    simp [LegalCommand, Instr.WellFormed, Instr.wellFormed]

/-- Settles O15: both sides say that the opcode map has a well-formed entry. -/
theorem decoderAcceptsLegalCommandsOnly : Obligations.DecoderAcceptsLegalCommandsOnly := by
  intro op arg
  rw [legalCommand_iff]
  exact exists_congr fun _ => decode_commandWord_eq_ok_iff

/-- Settles O14: an illegal command word does not decode, so it is rejected. -/
theorem illegalCommandsFault : Obligations.IllegalCommandsFault := by
  intro s op arg rest hport hs hillegal
  rw [step_command hport]
  cases hdec : decode (.cmd40 (commandWord op arg)) with
  | ok i => exact absurd ((decoderAcceptsLegalCommandsOnly op arg).mp ⟨i, hdec⟩) hillegal
  | error e =>
    rw [performCommand_undecoded hdec]
    exact runCommand_error (s := { s with port := rest }) hs .illegalCommand

/-! ### Raw bytes (R53) -/

/-- The high nibble tells data bytes from status bytes. -/
theorem highNibble_lt_iff (b : Byte) : (b.extractLsb' 4 4).toNat < 8 ↔ b < 0x80 := by
  have hhigh : (b.extractLsb' 4 4).toNat = b.toNat / 2 ^ 4 % 2 ^ 4 := by
    rw [BitVec.extractLsb'_toNat, Nat.shiftRight_eq_div_pow]
  bv_omega

theorem decodeByte_of_lt {b : Byte} (h : b < 0x80) : decodeByte b = .midi1Data (b.extractLsb' 0 7) := by
  have hhigh := (highNibble_lt_iff b).mpr h
  unfold decodeByte
  split
  case h_9 => rfl
  all_goals omega

theorem decodeByte_dataByteOf (data : BitVec 7) : decodeByte (dataByteOf data) = .midi1Data data := by
  rw [decodeByte_of_lt (dataByteOf_lt data), dataByteOf_data]

/-- A byte with this high nibble is that status on the channel of its low nibble. -/
theorem statusByteOf_of_high {b : Byte} {high : Nibble} (h : (b.extractLsb' 4 4).toNat = high.toNat) :
    statusByteOf high (b.extractLsb' 0 4) = b := by
  rw [← BitVec.eq_of_toNat_eq h]
  exact statusByteOf_fields b

theorem encode_decodeSystemByte (low : Nibble) : encode (decodeSystemByte low) = .midi1Byte (statusByteOf 0xF low) := by
  obtain ⟨low⟩ := low
  fin_cases low <;> rfl

theorem encode_decodeByte (b : Byte) : encode (decodeByte b) = .midi1Byte b := by
  unfold decodeByte
  split
  case h_8 h => rw [encode_decodeSystemByte, statusByteOf_of_high h]
  case h_9 =>
    have hhigh : (b.extractLsb' 4 4).toNat < 8 := by
      have hlt := (b.extractLsb' 4 4).isLt
      simp only [imp_false] at *
      omega
    have hb := (highNibble_lt_iff b).mp hhigh
    exact congrArg Encoded.midi1Byte (eq_dataByteOf hb).symm
  all_goals
    rename_i h
    exact congrArg Encoded.midi1Byte (statusByteOf_of_high h)

/-! ### Packets (R52, R64) -/

theorem decodePacket_packetOf (cin cn : Nibble) (p0 p1 p2 : Byte) :
    decodePacket (packetOf cin cn p0 p1 p2) = packetInstr cin cn p0 p1 p2 := by
  simp only [decodePacket, packetOf_cin, packetOf_cn, packetOf_p0, packetOf_p1, packetOf_p2]

theorem encode_packetInstr (cin cn : Nibble) (p0 p1 p2 : Byte) :
    encode (packetInstr cin cn p0 p1 p2) = .usbMidiPacket (packetOf cin cn p0 p1 p2) := by
  obtain ⟨cin⟩ := cin
  fin_cases cin <;> rfl

theorem encode_decodePacket (p : Word) : encode (decodePacket p) = .usbMidiPacket p := by
  rw [decodePacket, encode_packetInstr, packetOf_fields]

/-- The rows of the CIN table push the first `count(CIN)` payload bytes (R64). -/
theorem exec_packetInstr (cin cn : Nibble) (p0 p1 p2 : Byte) (s : State) :
    exec (packetInstr cin cn p0 p1 p2) s = runCommand s (receive cn ([p0, p1, p2].take (cinCount cin)) s) := by
  obtain ⟨cin⟩ := cin
  fin_cases cin <;> rfl

/-- Settles O27: both receive the first `count(CIN)` payload bytes on the packet's cable. -/
theorem usbRecvIsItsCinRow : Obligations.UsbRecvIsItsCinRow := fun s p =>
  (exec_usbRecv s p).trans (exec_packetInstr _ _ _ _ _ s).symm

/-! ### The three formats -/

/-- An operand class has no reserved bit of its own. -/
theorem wellFormed_of_encode_ne_cmd40 {i : Instr} (h : ∀ w, encode i ≠ .cmd40 w) : i.WellFormed := by
  cases i with
  | le7Dec2 arg | le7Dec4 arg | usbRecv arg | usbAvail arg | usbRead arg | bsPush arg | bsPop arg | bsEmpty arg
  | bsReset arg => exact absurd rfl (h _)
  | _ => rfl

/-- Settles O18: each decoder's result encodes to the word it was read from. -/
theorem encodeOfDecodeIsIdentity : Obligations.EncodeOfDecodeIsIdentity := by
  intro e i h
  cases e with
  | cmd40 w =>
    rw [← commandWord_fields w] at h ⊢
    obtain ⟨hmap, hwf⟩ := decode_commandWord_eq_ok_iff.mp h
    exact ⟨encode_of_opcodeMap hmap, hwf⟩
  | midi1Byte b =>
    cases h
    exact ⟨encode_decodeByte b, wellFormed_of_encode_ne_cmd40 (by simp [encode_decodeByte])⟩
  | usbMidiPacket p =>
    cases h
    exact ⟨encode_decodePacket p, wellFormed_of_encode_ne_cmd40 (by simp [encode_decodePacket])⟩

/-- Settles O17: each decoder reads back the fields that the encoder wrote; the classes without a field are one byte
each. -/
theorem decodeOfEncodeIsIdentity : Obligations.DecodeOfEncodeIsIdentity := by
  intro i hwf
  cases i with
  | le7Dec2 arg | le7Dec4 arg | usbRecv arg | usbAvail arg | usbRead arg | bsPush arg | bsPop arg | bsEmpty arg
  | bsReset arg => exact decode_commandWord_eq_ok_iff.mpr ⟨rfl, hwf⟩
  | midi1Data data => exact congrArg Except.ok (decodeByte_dataByteOf data)
  | midi1NoteOff channel | midi1NoteOn channel | midi1PolyPressure channel | midi1ControlChange channel
  | midi1ProgramChange channel | midi1ChannelPressure channel | midi1PitchBend channel =>
    simp [decode, encode, decodeByte, statusByteOf_high, statusByteOf_low]
  | usbCin0 cn p0 p1 p2 | usbCin1 cn p0 p1 p2 | usbCin2 cn p0 p1 p2 | usbCin3 cn p0 p1 p2 | usbCin4 cn p0 p1 p2
  | usbCin5 cn p0 p1 p2 | usbCin6 cn p0 p1 p2 | usbCin7 cn p0 p1 p2 | usbCin8 cn p0 p1 p2 | usbCin9 cn p0 p1 p2
  | usbCinA cn p0 p1 p2 | usbCinB cn p0 p1 p2 | usbCinC cn p0 p1 p2 | usbCinD cn p0 p1 p2 | usbCinE cn p0 p1 p2
  | usbCinF cn p0 p1 p2 => exact congrArg Except.ok (decodePacket_packetOf _ cn p0 p1 p2)
  | _ => rfl

/-- Settles O19: the decoder computes each of the ten. -/
theorem specWordsDecode : Obligations.SpecWordsDecode := ⟨rfl, rfl, rfl, rfl, rfl, rfl, rfl, rfl, rfl, rfl⟩

/-! ### `bs.push` of each class (R53, R74) -/

theorem statusByteOf_toNat (high channel : Nibble) :
    (statusByteOf high channel).toNat = high.toNat * 2 ^ 4 + channel.toNat := by
  rw [statusByteOf, BitVec.toNat_append, ← Nat.shiftLeft_add_eq_or_of_lt channel.isLt, Nat.shiftLeft_eq]

/-- The channel statuses lie below the system bytes. -/
theorem statusByteOf_range {high : Nibble} (channel : Nibble) (h8 : 8 ≤ high) (hF : high < 0xF) :
    0x80 ≤ statusByteOf high channel ∧ statusByteOf high channel < 0xF0 := by
  have hval := statusByteOf_toNat high channel
  have hchannel := channel.isLt
  constructor <;> bv_omega

theorem translateByte_of_lt (p : Config.Params) {b : Byte} (h : b < 0x80) (s : State) :
    translateByte p b s = dataByte p b s :=
  if_neg (by simpa [isStatus] using h)

theorem translateByte_of_status (p : Config.Params) {b : Byte} (h : 0x80 ≤ b) (hF8 : b < 0xF8) (hF0 : b ≠ 0xF0)
    (hF7 : b ≠ 0xF7) (s : State) : translateByte p b s = otherStatus p b s := by
  have hr : ¬ isRealtime b := by simpa [isRealtime] using hF8
  simp only [translateByte, isStatus, h, hF0, hF7, hr, decide_true, if_true, if_false, false_and, Bool.false_eq_true]

theorem translateByte_of_realtime (p : Config.Params) {b : Byte} (h : 0xF8 ≤ b) (s : State) :
    translateByte p b s = realtime p b s := by
  have hs : isStatus b := by simp only [isStatus, decide_eq_true_eq]; bv_omega
  have hF0 : b ≠ 0xF0 := by bv_omega
  have hF7 : b ≠ 0xF7 := by bv_omega
  simp only [translateByte, hs, hF0, hF7, isRealtime, h, decide_true, if_true, if_false, false_and]

theorem translateByte_sysexEnd (p : Config.Params) (s : State) : translateByte p 0xF7 s = sysexEndOrStatus p s := by
  unfold sysexEndOrStatus
  split <;> simp [translateByte, isStatus, isRealtime, *]

theorem translateByte_statusByteOf (p : Config.Params) {high : Nibble} (channel : Nibble) (h8 : 8 ≤ high)
    (hF : high < 0xF) (s : State) :
    translateByte p (statusByteOf high channel) s = otherStatus p (statusByteOf high channel) s := by
  obtain ⟨hlow, hup⟩ := statusByteOf_range channel h8 hF
  exact translateByte_of_status p hlow (by bv_omega) (by bv_omega) (by bv_omega) s

/-- What `bs.push` does with a byte, without its operand check. -/
theorem exec_bsPush_byte (b : Byte) (s : State) :
    exec (.bsPush (pushOperand b)) s = runCommand s (commit s (translateByte params b s)) := by
  simp only [exec_bsPush, argByte, Nat.mul_zero, pushOperand_reserved, pushOperand_byte, ne_eq, not_true_eq_false,
    if_false]

/-- The row of a class of bytes does what `bs.push` does with each byte of that class. -/
theorem exec_of_encode_byte {i : Instr} {b : Byte} (h : encode i = .midi1Byte b) (s : State) :
    exec i s = runCommand s (commit s (translateByte params b s)) := by
  cases i with
  | midi1Data data =>
    cases h
    rw [translateByte_of_lt _ (dataByteOf_lt data), exec_midi1Data]
  | midi1NoteOff channel | midi1NoteOn channel | midi1PolyPressure channel | midi1ControlChange channel
  | midi1ProgramChange channel | midi1ChannelPressure channel | midi1PitchBend channel =>
    cases h
    rw [translateByte_statusByteOf _ channel (by decide) (by decide)]
    rfl
  | midi1SystemCommonF1 | midi1SystemCommonF2 | midi1SystemCommonF3 | midi1ReservedF4 | midi1ReservedF5
  | midi1TuneRequest =>
    cases h
    rw [translateByte_of_status _ (by decide) (by decide) (by decide) (by decide)]
    rfl
  | midi1RealtimeF8 | midi1RealtimeF9 | midi1RealtimeFA | midi1RealtimeFB | midi1RealtimeFC | midi1RealtimeFD
  | midi1RealtimeFE | midi1RealtimeFF =>
    cases h
    rw [translateByte_of_realtime _ (by decide)]
    rfl
  | midi1SysexStart =>
    cases h
    rfl
  | midi1SysexEnd =>
    cases h
    rw [translateByte_sysexEnd, exec_midi1SysexEnd]
  | _ => cases h

/-- Settles O41: the byte's class has a row that encodes to that byte. -/
theorem bsPushIsItsByteClass : Obligations.BsPushIsItsByteClass := by
  intro s b
  rw [exec_bsPush_byte, exec_of_encode_byte (encode_decodeByte b)]

/-! ### Assembly (R49, R50) -/

theorem decodes_of_legalCommand {op : Byte} {arg : Word} (h : LegalCommand op arg) :
    ∃ i, decode (.cmd40 (commandWord op arg)) = .ok i ∧ i.WellFormed := by
  obtain ⟨i, hi, hwf⟩ := (legalCommand_iff op arg).mp h
  exact ⟨i, decode_commandWord_eq_ok_iff.mpr ⟨hi, hwf⟩, hwf⟩

theorem asmBytes_length {ns : List Nat} {bs : List Byte} (h : asmBytes ns = some bs) : bs.length = ns.length := by
  induction ns generalizing bs with
  | nil => cases h; rfl
  | cons n ns ih =>
    rw [asmBytes] at h
    split at h
    next b bs' _ hbs => cases h; simp [ih hbs]
    · cases h

theorem asmBytes_toNat (bytes : List Byte) : asmBytes (bytes.map (·.toNat)) = some bytes := by
  induction bytes with
  | nil => rfl
  | cons b bs ih => simp [asmBytes, asmByte, ih, b.isLt]

theorem legalCommand_push (b : Byte) : LegalCommand 0x20 (pushOperand b) := by
  simp [LegalCommand, pushOperand_reserved]

/-- An assembled operand of `le7.dec2` has its reserved bits 0. -/
theorem le7Operand_reserved (b0 b1 : Byte) : (0#16 ++ b1 ++ b0).extractLsb' 16 16 = 0 :=
  (extract_left (0#16 ++ b1) b0 8 16 (by decide)).trans (extract_high 0#16 b1)

/-- Every word of the list is a legal command, and there is at least one. -/
def LegalWords (words : List CommandWord) : Prop :=
  words ≠ [] ∧ ∀ w ∈ words, ∃ i, decode (.cmd40 w) = .ok i ∧ i.WellFormed

theorem LegalWords.single {op : Byte} {arg : Word} (h : LegalCommand op arg) : LegalWords [commandWord op arg] := by
  refine ⟨List.cons_ne_nil _ _, fun w hw => ?_⟩
  rw [List.mem_singleton.mp hw]
  exact decodes_of_legalCommand h

theorem LegalWords.pushes {bs : List Byte} (h : bs ≠ []) : LegalWords (bs.map asmPush) := by
  refine ⟨by simpa using h, fun w hw => ?_⟩
  obtain ⟨b, -, rfl⟩ := List.mem_map.mp hw
  exact decodes_of_legalCommand (legalCommand_push b)

theorem LegalWords.pops {k : Nat} (h : k ≠ 0) : LegalWords (List.replicate k (commandWord 0x21 0)) := by
  refine ⟨by simpa using h, fun w hw => ?_⟩
  rw [List.eq_of_mem_replicate hw]
  exact decodes_of_legalCommand (by simp [LegalCommand])

/-- Settles O57: each form assembles to commands whose operand has its reserved bits 0. -/
theorem assembledWordsAreLegal : Obligations.AssembledWordsAreLegal := by
  intro line words h
  change LegalWords words
  cases line with
  | le7Dec2 b0 b1 =>
    simp only [assemble, Option.bind_eq_bind, Option.bind_eq_some_iff, Option.some.injEq] at h
    obtain ⟨b0, -, b1, -, rfl⟩ := h
    exact .single (.inl ⟨rfl, le7Operand_reserved b0 b1⟩)
  | le7Dec4 b0 b1 b2 b3 =>
    simp only [assemble, Option.bind_eq_bind, Option.bind_eq_some_iff, Option.some.injEq] at h
    obtain ⟨b0, -, b1, -, b2, -, b3, -, rfl⟩ := h
    exact .single (.inr (.inl rfl))
  | usbRecv p =>
    obtain ⟨p, -, ⟨⟩⟩ := Option.bind_eq_some_iff.mp h
    exact .single (.inr (.inr (.inl rfl)))
  | bsPush b =>
    obtain ⟨b, -, ⟨⟩⟩ := Option.bind_eq_some_iff.mp h
    exact .single (legalCommand_push b)
  | bsSend bytes =>
    simp only [assemble] at h
    split at h
    · cases h
    next hne =>
      obtain ⟨bs, hbs, rfl⟩ := Option.map_eq_some_iff.mp h
      refine .pushes fun hnil => hne ?_
      rw [List.isEmpty_iff_length_eq_zero, ← asmBytes_length hbs, hnil, List.length_nil]
  | bsPopn k =>
    simp only [assemble] at h
    split at h <;> cases h
    exact .pops ‹_›
  | usbAvail | usbRead | bsPop | bsEmpty | bsReset =>
    cases h
    exact .single (by simp [LegalCommand])

/-- Settles O58: every byte of `bs.send` is an operand that fits; `bs.popn` repeats one word. -/
theorem pseudoInstructionsExpand : Obligations.PseudoInstructionsExpand := by
  constructor
  · intro bytes hne
    simp only [assemble, asmBytes_toNat, List.isEmpty_iff, List.map_eq_nil_iff, hne, if_false]
    rfl
  · intro k hk
    exact if_neg (by omega)

end Sys2Proof.Machine

/-! SUPPORT. The obligations of 40_le7.md: the decode function as a base-128 numeral, and the two commands that return its
value. -/

namespace Sys2Proof.Machine

/-! ### Bit 7 is ignored (R61) -/

@[simp] theorem and_7F_and_7F (b : Byte) : b &&& 0x7F &&& 0x7F = b &&& 0x7F := by
  rw [BitVec.and_assoc, BitVec.and_self]

theorem and_7F_toNat (b : Byte) : (b &&& 0x7F).toNat = b.toNat % 2 ^ 7 :=
  Nat.and_two_pow_sub_one_eq_mod b.toNat 7

theorem and_7F_toNat_lt (b : Byte) : (b &&& 0x7F).toNat < 2 ^ 7 := by
  rw [and_7F_toNat]
  exact Nat.mod_lt _ (by decide)

theorem and_7F_of_lt {b : Byte} (h : b < 0x80) : b &&& 0x7F = b :=
  BitVec.eq_of_toNat_eq ((and_7F_toNat b).trans (Nat.mod_eq_of_lt h))

theorem map_and_7F_of_lt {bytes : List Byte} (h : ∀ b ∈ bytes, b < 0x80) : bytes.map (· &&& 0x7F) = bytes :=
  (List.map_congr_left fun b hb => and_7F_of_lt (h b hb)).trans (List.map_id bytes)

@[simp] theorem le7Decode_nil : le7Decode [] = 0 := rfl

theorem le7Decode_map_and_7F (bytes : List Byte) : le7Decode (bytes.map (· &&& 0x7F)) = le7Decode bytes := by
  induction bytes with
  | nil => rfl
  | cons b bs ih => simp only [List.map_cons, le7Decode, and_7F_and_7F, ih]

/-! ### The decode function is a numeral in base 2^7 (R59, R60) -/

/-- The library's numeral of the seven-bit groups, least significant first. -/
theorem le7Decode_eq_ofDigits (bytes : List Byte) :
    le7Decode bytes = Nat.ofDigits (2 ^ 7) ((bytes.map (· &&& 0x7F)).map (·.toNat)) := by
  induction bytes with
  | nil => rfl
  | cons b bs ih => rw [le7Decode, ih, List.map_cons, List.map_cons, Nat.ofDigits_cons, Nat.mul_comm]

/-- The groups are digits of that base. -/
theorem le7Digit_lt {bytes : List Byte} : ∀ d ∈ (bytes.map (· &&& 0x7F)).map (·.toNat), d < 2 ^ 7 := by
  simp only [List.map_map, List.forall_mem_map, Function.comp_apply]
  exact fun b _ => and_7F_toNat_lt b

theorem le7Decode_lt (bytes : List Byte) : le7Decode bytes < 2 ^ (7 * bytes.length) := by
  have h := Nat.ofDigits_lt_base_pow_length (by decide) (le7Digit_lt (bytes := bytes))
  rwa [← le7Decode_eq_ofDigits, List.length_map, List.length_map, ← Nat.pow_mul] at h

theorem le7Decode_injective {xs ys : List Byte} (hlen : xs.length = ys.length) (hx : ∀ b ∈ xs, b < 0x80)
    (hy : ∀ b ∈ ys, b < 0x80) (h : le7Decode xs = le7Decode ys) : xs = ys := by
  rw [le7Decode_eq_ofDigits, le7Decode_eq_ofDigits] at h
  have hdigits := Nat.ofDigits_inj_of_len_eq (by decide) (by simpa using hlen) le7Digit_lt le7Digit_lt h
  rw [map_and_7F_of_lt hx, map_and_7F_of_lt hy] at hdigits
  exact List.map_injective_iff.mpr (fun _ _ => BitVec.eq_of_toNat_eq) hdigits

/-- The data bytes of a value are its digits. -/
theorem le7Decode_surjective {n v : Nat} (h : v < 2 ^ (7 * n)) :
    ∃ bytes : List Byte, bytes.length = n ∧ (∀ b ∈ bytes, b < 0x80) ∧ le7Decode bytes = v := by
  rw [Nat.pow_mul] at h
  obtain ⟨digits, ⟨hlen, hlt⟩, rfl⟩ := (Nat.bijOn_ofDigits (by decide) n).surjOn h
  have htoNat : ∀ d ∈ digits, (BitVec.ofNat 8 d).toNat = d := fun d hd =>
    Nat.mod_eq_of_lt ((hlt d hd).trans (by decide))
  have hdata : ∀ b ∈ digits.map (BitVec.ofNat 8), b < 0x80 := by
    rintro _ hb
    obtain ⟨d, hd, rfl⟩ := List.mem_map.mp hb
    rw [BitVec.lt_def, htoNat d hd]
    exact hlt d hd
  refine ⟨digits.map (BitVec.ofNat 8), by rw [List.length_map, hlen], hdata, ?_⟩
  rw [le7Decode_eq_ofDigits, map_and_7F_of_lt hdata, List.map_map]
  exact congrArg _ ((List.map_congr_left htoNat).trans (List.map_id digits))

/-! ### The groups do not overlap (R59) -/

theorem le7Decode_eq_sum (bytes : List Byte) :
    le7Decode bytes = ∑ i : Fin bytes.length, (bytes[i] &&& 0x7F).toNat * 2 ^ (7 * i.val) := by
  induction bytes with
  | nil => rfl
  | cons b bs ih =>
    rw [le7Decode, ih, Finset.sum_mul]
    refine Eq.trans ?_ (Fin.sum_univ_succ _).symm
    simp [Nat.mul_add, Nat.pow_add, Nat.mul_assoc]

/-- The lowest group has its seven bits to itself, so adding it is joining it. -/
theorem le7Decode_cons_eq_or (b : Byte) (bs : List Byte) :
    le7Decode (b :: bs) = (b &&& 0x7F).toNat ||| le7Decode bs <<< 7 := by
  rw [le7Decode, Nat.or_comm, ← Nat.shiftLeft_add_eq_or_of_lt (and_7F_toNat_lt b), Nat.shiftLeft_eq, Nat.add_comm]

theorem foldr_or_shiftLeft (group shift : Nat → Nat) (k : Nat) (is : List Nat) :
    is.foldr (fun i v => group i <<< (shift i + k) ||| v) 0 = is.foldr (fun i v => group i <<< shift i ||| v) 0 <<< k := by
  induction is with
  | nil => simp
  | cons i is ih => rw [List.foldr_cons, List.foldr_cons, ih, Nat.shiftLeft_or_distrib, Nat.shiftLeft_add]

theorem le7Decode_eq_or (bytes : List Byte) :
    le7Decode bytes =
      (List.range bytes.length).foldr (fun i v => (bytes.getD i 0 &&& 0x7F).toNat <<< (7 * i) ||| v) 0 := by
  induction bytes with
  | nil => rfl
  | cons b bs ih =>
    rw [le7Decode_cons_eq_or, ih, ← foldr_or_shiftLeft, List.length_cons, List.range_succ_eq_map, List.foldr_cons,
      List.foldr_map]
    rfl

/-! ### The values of the commands (R62, R63) -/

/-- Group `i` of an operand is that of its byte `i`. -/
theorem le7Group_toNat (arg : Word) {i : Nat} (hi : i < 4) :
    (le7Group arg i).toNat = (argByte arg i &&& 0x7F).toNat <<< (7 * i) := by
  have hgroup : (arg.extractLsb' (8 * i) 7).toNat = (argByte arg i &&& 0x7F).toNat := by
    rw [and_7F_toNat, argByte, BitVec.extractLsb'_toNat, BitVec.extractLsb'_toNat,
      Nat.mod_mod_of_dvd _ (pow_dvd_pow 2 (by decide))]
  have hlt : (argByte arg i &&& 0x7F).toNat <<< (7 * i) < 2 ^ 32 :=
    (Nat.shiftLeft_lt (and_7F_toNat_lt _)).trans_le (Nat.pow_le_pow_right (by decide) (by omega))
  rw [le7Group, BitVec.toNat_shiftLeft, BitVec.toNat_setWidth_of_le (by decide), hgroup, Nat.mod_eq_of_lt hlt]

theorem le7Value2_toNat (arg : Word) : (le7Value2 arg).toNat = le7Decode [argByte arg 0, argByte arg 1] := by
  simp [le7Value2, le7Group_toNat, le7Decode_cons_eq_or]

theorem le7Value4_toNat (arg : Word) :
    (le7Value4 arg).toNat = le7Decode [argByte arg 0, argByte arg 1, argByte arg 2, argByte arg 3] := by
  simp [le7Value4, le7Group_toNat, le7Decode_cons_eq_or, Nat.shiftLeft_or_distrib, ← Nat.shiftLeft_add, Nat.or_assoc]

theorem le7Value2_lt (arg : Word) : (le7Value2 arg).toNat < 2 ^ 14 := le7Value2_toNat arg ▸ le7Decode_lt _

theorem le7Value4_lt (arg : Word) : (le7Value4 arg).toNat < 2 ^ 28 := le7Value4_toNat arg ▸ le7Decode_lt _

/-- A value below `2^k` has no bit from `k` up. -/
theorem extract_eq_zero_of_lt {v : Word} {k l : Nat} (h : v.toNat < 2 ^ k) : v.extractLsb' k l = 0 :=
  BitVec.eq_of_toNat_eq (by simp [BitVec.extractLsb'_toNat, Nat.shiftRight_eq_div_pow, Nat.div_eq_of_lt h])

theorem argByte_and (arg mask : Word) (i : Nat) : argByte (arg &&& mask) i = argByte arg i &&& argByte mask i :=
  BitVec.extractLsb'_and

theorem le7Value2_and (arg : Word) : le7Value2 (arg &&& 0xFFFF7F7F) = le7Value2 arg := by
  apply BitVec.eq_of_toNat_eq
  rw [le7Value2_toNat, le7Value2_toNat, argByte_and, argByte_and]
  exact le7Decode_map_and_7F [argByte arg 0, argByte arg 1]

theorem le7Value4_and (arg : Word) : le7Value4 (arg &&& 0x7F7F7F7F) = le7Value4 arg := by
  apply BitVec.eq_of_toNat_eq
  rw [le7Value4_toNat, le7Value4_toNat, argByte_and, argByte_and, argByte_and, argByte_and]
  exact le7Decode_map_and_7F [argByte arg 0, argByte arg 1, argByte arg 2, argByte arg 3]

/-! ### The commands -/

theorem exec_le7Dec2_reserved {s : State} {arg : Word} (hs : s.fltCode = 0) (h : arg.extractLsb' 16 16 ≠ 0) :
    exec (.le7Dec2 arg) s = .next (s.raiseFault .illegalCommand) := by
  rw [exec_le7Dec2, if_pos h, runCommand_error hs]

theorem exec_le7Dec2_val {s : State} {arg : Word} (hs : s.fltCode = 0) (h : arg.extractLsb' 16 16 = 0) :
    exec (.le7Dec2 arg) s = .next (s.reply (.val (le7Value2 arg))) := by
  rw [exec_le7Dec2, if_neg (not_not_intro h), runCommand_ok hs]

theorem exec_le7Dec4_val {s : State} (hs : s.fltCode = 0) (arg : Word) :
    exec (.le7Dec4 arg) s = .next (s.reply (.val (le7Value4 arg))) := by
  rw [exec_le7Dec4, runCommand_ok hs]

/-- The value that `le7.dec2` answers, when it answers one, is that of its operand. -/
theorem eq_le7Value2_of_exec {s t : State} {arg v : Word} (hs : s.fltCode = 0) (hv : t.resp = some (.val v))
    (h : exec (.le7Dec2 arg) s = .next t) : v = le7Value2 arg := by
  by_cases hres : arg.extractLsb' 16 16 = 0
  · cases (exec_le7Dec2_val hs hres).symm.trans h
    cases hv
    rfl
  · cases (exec_le7Dec2_reserved hs hres).symm.trans h
    cases hv

theorem eq_le7Value4_of_exec {s t : State} {arg v : Word} (hs : s.fltCode = 0) (hv : t.resp = some (.val v))
    (h : exec (.le7Dec4 arg) s = .next t) : v = le7Value4 arg := by
  cases (exec_le7Dec4_val hs arg).symm.trans h
  cases hv
  rfl

/-! ### The obligations -/

/-- Settles O22: the sum by recursion on the bytes; the OR since each byte's group lies below the shifted rest. -/
theorem le7IsSumOfGroups : Obligations.Le7IsSumOfGroups :=
  ⟨le7Decode_eq_sum, le7Decode_eq_or,
    fun _ arg hs hres => ⟨le7Value2 arg, le7Value2_toNat arg, exec_le7Dec2_val hs hres⟩,
    fun _ arg hs => ⟨le7Value4 arg, le7Value4_toNat arg, exec_le7Dec4_val hs arg⟩⟩

/-- Settles O23: the numerals of `n` digits in base `2^7` are the numbers below `2^(7n)`, one each; a byte `0x80` reads as
`0x00`. -/
theorem le7IsInjectiveAndOnto : Obligations.Le7IsInjectiveAndOnto := by
  refine ⟨le7Decode_lt, fun s t arg v hs hv => ⟨fun h => ?_, fun h => ?_⟩, fun _ _ => le7Decode_injective,
    fun _ _ => le7Decode_surjective, fun n hn => ?_⟩
  · rw [eq_le7Value2_of_exec hs hv h]
    exact ⟨extract_eq_zero_of_lt (le7Value2_lt arg), le7Value2_toNat arg⟩
  · rw [eq_le7Value4_of_exec hs hv h]
    exact ⟨extract_eq_zero_of_lt (le7Value4_lt arg), le7Value4_toNat arg⟩
  · refine ⟨(List.replicate n 0x80).map (· &&& 0x7F), List.replicate n 0x80, by simp, by simp, ?_,
      le7Decode_map_and_7F _⟩
    obtain ⟨m, rfl⟩ := Nat.exists_eq_add_of_le' hn
    simp [List.replicate_succ]

/-- Settles O24: the masks clear bit 7 of each operand byte, and keep the reserved bits of `le7.dec2`. -/
theorem le7IgnoresTopBits : Obligations.Le7IgnoresTopBits := by
  refine ⟨fun bytes => (le7Decode_map_and_7F bytes).symm, fun s arg => ⟨?_, ?_⟩⟩
  · have hreserved : (arg &&& 0xFFFF7F7F).extractLsb' 16 16 = arg.extractLsb' 16 16 :=
      BitVec.extractLsb'_and.trans BitVec.and_allOnes
    rw [exec_le7Dec2, exec_le7Dec2, hreserved, le7Value2_and]
  · rw [exec_le7Dec4, exec_le7Dec4, le7Value4_and]

/-- Settles O20: the ends of the command, by the faulted state and the reserved bits. -/
theorem le7Dec2Result : Obligations.Le7Dec2Result := by
  refine fun s arg => ⟨fun hres => ?_, fun hs => ?_, exec_le7Dec2_reserved, fun hs hres => ?_⟩
  · exact decode_commandWord_eq_ok_iff.mpr ⟨rfl, beq_iff_eq.mpr hres⟩
  · rw [exec_le7Dec2, runCommand_faulted hs]
  · exact ⟨le7Value2 arg, by simp [le7Value2, le7Group], Nat.le_of_lt_succ (le7Value2_lt arg), exec_le7Dec2_val hs hres⟩

/-- Settles O21: the ends of the command; every operand is legal. -/
theorem le7Dec4Result : Obligations.Le7Dec4Result := by
  refine fun s arg => ⟨?_, fun hs => ?_, fun hs => ?_⟩
  · exact decode_commandWord_eq_ok_iff.mpr ⟨rfl, rfl⟩
  · rw [exec_le7Dec4, runCommand_faulted hs]
  · exact ⟨le7Value4 arg, by simp [le7Value4, le7Group], Nat.le_of_lt_succ (le7Value4_lt arg), exec_le7Dec4_val hs arg⟩

end Sys2Proof.Machine

/-! SUPPORT. The obligations of 41_usb_extractor.md: the ends of the extractor's three commands, and the host that drains
it. -/

namespace Sys2Proof.Machine

/-! ### Receiving a packet (R64, R65) -/

/-- The written-out CIN table is `count(CIN)` (R64). -/
theorem cinTable_getD (cin : Nibble) :
    ([0, 0, 2, 3, 3, 1, 2, 3, 3, 3, 3, 3, 2, 2, 3, 1] : List Nat).getD cin.toNat 0 = cinCount cin := by
  obtain ⟨cin⟩ := cin
  fin_cases cin <;> rfl

/-- The payload bytes that a packet's CIN carries (R64). -/
def packetBytes (p : Word) : List Byte := (packetPayload p).take (cinCount (packetCin p))

theorem packetBytes_length_le (p : Word) : (packetBytes p).length ≤ 3 := List.length_take_le' _ _

/-- A row of the CIN table: its instruction and the payload bytes that instruction carries (R64). -/
def cinRow (cn : Nibble) (p0 p1 p2 : Byte) (cin : Nibble) : Instr × List Byte :=
  (packetInstr cin cn p0 p1 p2, [p0, p1, p2].take (cinCount cin))

theorem Fifo.pushes_of_fits {α : Type} {n : Nat} {f : Fifo α n} {vs : List α} (h : f.size.val + vs.length ≤ n) :
    ∃ g, Pushes f vs g ∧ f.enqueue vs = .ok g := by
  obtain ⟨g, hpush, hcontents⟩ := f.pushAll_ok vs h
  exact ⟨g, ⟨hpush, hcontents⟩, (if_neg (Nat.not_lt.mpr h)).trans hpush⟩

theorem receive_same (bytes : List Byte) (s : State) :
    receive s.cfgCable bytes s =
      (s.uxFifo.enqueue bytes).map fun f => { s with uxFifo := f }.reply .none := by
  rw [receive, if_neg (not_not_intro rfl)]
  cases s.uxFifo.enqueue bytes <;> rfl

/-- The ends that R65 gives a command that receives `bytes` on cable `cn` and is not ignored. -/
structure ReceiveEnds (s : State) (cn : Nibble) (bytes : List Byte) (o : Host.Outcome State Fault Refusal) : Prop where
  other : cn ≠ s.cfgCable → o = .next (s.reply .none)
  fits : cn = s.cfgCable → s.uxFifo.size.val + bytes.length ≤ 4 →
    ∃ f, Pushes s.uxFifo bytes f ∧ o = .next ({ s with uxFifo := f }.reply .none)
  full : cn = s.cfgCable → 4 < s.uxFifo.size.val + bytes.length → o = .next (s.raiseFault .fifoOverflow)

theorem runCommand_receive {s : State} (hs : s.fltCode = 0) (cn : Nibble) (bytes : List Byte) :
    ReceiveEnds s cn bytes (runCommand s (receive cn bytes s)) where
  other hcn := by rw [receive_other hcn, runCommand_ok hs]
  fits hcn hfits := by
    obtain ⟨f, hpushes, hf⟩ := Fifo.pushes_of_fits hfits
    refine ⟨f, hpushes, ?_⟩
    rw [hcn, receive_same, hf]
    exact runCommand_ok hs _
  full hcn hfull := by
    rw [hcn, receive_same, Fifo.enqueue_full hfull]
    exact runCommand_error hs _

theorem usbRecv_ends {s : State} (hs : s.fltCode = 0) (p : Word) :
    ReceiveEnds s (packetCable p) (packetBytes p) (exec (.usbRecv p) s) :=
  runCommand_receive hs (packetCable p) (packetBytes p)

/-- Settles O25: `usb.recv` ends as R65 says; the written-out table is that of the CIN. -/
theorem usbRecvResult : Obligations.UsbRecvResult := by
  intro s p bytes hbytes
  obtain rfl : bytes = packetBytes p := by rw [hbytes, cinTable_getD]; rfl
  exact ⟨decode_commandWord_eq_ok_iff.mpr ⟨rfl, rfl⟩, fun hs => runCommand_faulted hs _,
    fun hs => (usbRecv_ends hs p).other, fun hs => (usbRecv_ends hs p).fits, fun hs => (usbRecv_ends hs p).full⟩

/-- Settles O26: the rows are those of the sixteen CINs, each of which receives its first `count(CIN)` payload bytes. -/
theorem cinRowsPushTheirBytes : Obligations.CinRowsPushTheirBytes := by
  intro s cn p0 p1 p2 hs row hrow
  obtain ⟨cin, -, rfl⟩ := List.mem_map.mp <| show row ∈
    ([0x0, 0x1, 0x2, 0x3, 0x4, 0x5, 0x6, 0x7, 0x8, 0x9, 0xA, 0xB, 0xC, 0xD, 0xE, 0xF] : List Nibble).map
      (cinRow cn p0 p1 p2) from hrow
  have hends : ReceiveEnds s cn (cinRow cn p0 p1 p2 cin).2 (exec (cinRow cn p0 p1 p2 cin).1 s) := by
    simp only [cinRow, exec_packetInstr]
    exact runCommand_receive hs cn _
  exact ⟨hends.other, hends.fits, hends.full⟩

/-! ### How far the FIFO grows (R69, R111) -/

/-- A command that receives `bytes` adds at most those bytes to `UX_FIFO`, however it ends. -/
theorem uxFifo_size_le_of_receive {s t : State} {cn : Nibble} {bytes : List Byte}
    (h : runCommand s (receive cn bytes s) = .next t) :
    t.uxFifo.size.val ≤ s.uxFifo.size.val + bytes.length := by
  rcases runCommand_cases h with ⟨-, rfl⟩ | ⟨-, hok⟩ | ⟨-, c, -, rfl⟩
  · exact Nat.le_add_right _ _
  · by_cases hcn : cn = s.cfgCable
    · subst hcn
      rcases receive_cases bytes s with ⟨f, e, -, hcontents, -⟩ | ⟨e, -⟩ <;> cases e.symm.trans hok
      exact Nat.le_of_eq (by simpa using congrArg List.length hcontents)
    · cases (receive_other hcn bytes).symm.trans hok
      exact Nat.le_add_right _ _
  · exact Nat.le_add_right _ _

/-- Settles O30: a packet carries at most three bytes, so beside one byte they fit. -/
theorem drainedExtractorNeverOverflows : Obligations.DrainedExtractorNeverOverflows := by
  constructor
  · intro s t p h
    have hgrow := uxFifo_size_le_of_receive (bytes := packetBytes p) h
    have hlen := packetBytes_length_le p
    omega
  · intro s p hs hsize
    have hlen := packetBytes_length_le p
    by_cases hcn : packetCable p = s.cfgCable
    · obtain ⟨f, -, hexec⟩ := (usbRecv_ends hs p).fits hcn (by omega)
      exact ⟨_, hexec, hs, rfl⟩
    · exact ⟨_, (usbRecv_ends hs p).other hcn, hs, rfl⟩

/-! ### The status and the oldest byte (R66, R67) -/

theorem boolValue_uxAvailable (s : State) : boolValue s.uxAvailable = if s.uxFifo.contents = [] then 0 else 1 := by
  have hempty := s.uxFifo.isEmpty_iff
  split
  next hc => rw [State.uxAvailable, hempty.mpr hc]; rfl
  next hc => rw [State.uxAvailable, Bool.eq_false_of_not_eq_true (mt hempty.mp hc)]; rfl

/-- Settles O28: the ends of the command, by the faulted state and the operand. -/
theorem usbAvailResult : Obligations.UsbAvailResult := by
  refine fun s arg => ⟨?_, fun hs => runCommand_faulted hs _, fun hs harg => ?_, fun hs harg => ?_⟩
  · rintro rfl
    exact decode_commandWord_eq_ok_iff.mpr ⟨rfl, rfl⟩
  · rw [exec_usbAvail, if_pos harg, runCommand_error hs]
  · rw [exec_usbAvail, if_neg (not_not_intro harg), runCommand_ok hs, boolValue_uxAvailable]
    rfl

theorem exec_usbRead_empty {s : State} (hs : s.fltCode = 0) (hempty : s.uxFifo.size.val = 0) :
    exec (.usbRead 0) s = .next (s.raiseFault .fifoUnderflow) := by
  rw [exec_usbRead, if_neg (not_not_intro rfl), readByte, Fifo.pop_empty hempty, runCommand_error hs]

theorem exec_usbRead_val {s : State} {b : Byte} {f : Fifo Byte Config.uxCap} (hs : s.fltCode = 0)
    (hpop : s.uxFifo.pop = .ok (b, f)) :
    exec (.usbRead 0) s = .next ({ s with uxFifo := f }.reply (.val (b.setWidth 32))) := by
  rw [exec_usbRead, if_neg (not_not_intro rfl), readByte, hpop, runCommand_ok hs]

/-- Settles O29: the ends of the command, by the faulted state, the operand and the size of `UX_FIFO`. -/
theorem usbReadResult : Obligations.UsbReadResult := by
  refine fun s arg => ⟨?_, fun hs => runCommand_faulted hs _, fun hs harg => ?_, ?_, ?_⟩
  · rintro rfl
    exact decode_commandWord_eq_ok_iff.mpr ⟨rfl, rfl⟩
  · rw [exec_usbRead, if_pos harg, runCommand_error hs]
  · rintro hs rfl hempty
    exact exec_usbRead_empty hs (congrArg Fin.val hempty)
  · rintro hs rfl hne
    obtain ⟨b, f, hpop, hcontents⟩ := Fifo.pop_ok (f := s.uxFifo) (Fin.val_ne_of_ne hne)
    exact ⟨b, f, hpop, hcontents, exec_usbRead_val hs hpop⟩

/-! ### A host that drains after every packet (R68, R111) -/

/-- `t` is without a fault, with `UX_FIFO` empty and the cable of `s`. -/
structure DrainedFrom (s t : State) : Prop where
  fltCode : t.fltCode = 0
  size : t.uxFifo.size.val = 0
  cfgCable : t.cfgCable = s.cfgCable

/-- The byte that `usb.read` returned is the low byte of its value (R67). -/
theorem readBytes_succ {s t : State} {b : Byte} (n : Nat) (h : exec (.usbRead 0) s = .next t)
    (hresp : t.resp = some (.val (b.setWidth 32))) :
    readBytes (n + 1) s = (readBytes n t).map fun r => (b :: r.1, r.2) := by
  have hbyte : (b.setWidth 32).setWidth 8 = b := by simp
  simp only [readBytes, h, hresp, hbyte]

/-- Reading until `UX_FIFO` is empty returns all it held, oldest first. -/
theorem readBytes_contents {s : State} (hs : s.fltCode = 0) :
    ∃ t, readBytes s.uxFifo.size.val s = some (s.uxFifo.contents, t) ∧ DrainedFrom s t := by
  rw [← Fifo.contents_length]
  induction hbytes : s.uxFifo.contents generalizing s with
  | nil => exact ⟨s, rfl, hs, by rw [← Fifo.contents_length, hbytes]; rfl, rfl⟩
  | cons b bytes ih =>
    have hne : s.uxFifo.size.val ≠ 0 := by simp [← Fifo.contents_length, hbytes]
    obtain ⟨b', f, hpop, hcontents⟩ := Fifo.pop_ok hne
    obtain ⟨rfl, rfl⟩ := List.cons.inj (hbytes.symm.trans hcontents)
    obtain ⟨t, hread, ht⟩ := ih (s := { s with uxFifo := f }.reply (.val (b.setWidth 32))) hs rfl
    refine ⟨t, ?_, ht.fltCode, ht.size, ht.cfgCable⟩
    rw [List.length_cons, readBytes_succ _ (exec_usbRead_val hs hpop) rfl, hread]
    rfl

/-- One packet and the reads after it return the packet's bytes, or nothing for another cable. -/
theorem recvDrained_cons {s : State} (hs : s.fltCode = 0) (hempty : s.uxFifo.size.val = 0) (p : Word) :
    ∃ t, DrainedFrom s t ∧ ∀ ps, recvDrained (p :: ps) s =
      (recvDrained ps t).map fun r => ((if packetCable p = s.cfgCable then packetBytes p else []) ++ r.1, r.2) := by
  have hnil : s.uxFifo.contents = [] := List.length_eq_zero_iff.mp (s.uxFifo.contents_length.trans hempty)
  have hlen := packetBytes_length_le p
  obtain ⟨f, hexec, hheld⟩ : ∃ f, exec (.usbRecv p) s = .next ({ s with uxFifo := f }.reply .none) ∧
      f.contents = if packetCable p = s.cfgCable then packetBytes p else [] := by
    split
    next hcn =>
      obtain ⟨f, ⟨-, hcontents⟩, hexec⟩ := (usbRecv_ends hs p).fits hcn (by omega)
      exact ⟨f, hexec, by rw [hcontents, hnil, List.nil_append]⟩
    next hcn => exact ⟨s.uxFifo, (usbRecv_ends hs p).other hcn, hnil⟩
  obtain ⟨t, hread, ht⟩ := readBytes_contents (s := { s with uxFifo := f }.reply .none) hs
  refine ⟨t, ⟨ht.fltCode, ht.size, ht.cfgCable⟩, fun ps => ?_⟩
  simp only [recvDrained, hexec, hread]
  rw [← hheld]
  rfl

/-- Settles O31, by induction on the packets: each leaves the extractor drained for the next. -/
theorem extractorOutputIsConcatenation : Obligations.ExtractorOutputIsConcatenation := by
  intro packets
  induction packets with
  | nil => exact fun s hs hempty => ⟨s, rfl, hs, hempty, rfl⟩
  | cons p ps ih =>
    intro s hs hempty
    obtain ⟨u, hu, hcons⟩ := recvDrained_cons hs hempty p
    obtain ⟨t, hrest, hflt, hsize, hcable⟩ := ih u hu.fltCode hu.size
    refine ⟨t, ?_, hflt, hsize, hcable.trans hu.cfgCable⟩
    rw [hcons, hrest, hu.cfgCable]
    by_cases hcn : packetCable p = s.cfgCable <;> simp [hcn, packetBytes]

end Sys2Proof.Machine

/-! SUPPORT. The obligations of 42_translator.md: the ends of the translator's commands, what each byte does, and whole
byte streams. -/

namespace Sys2Proof.Machine

/-! ### The ends of `bs.push` (R75) -/

/-- The ends that R75 gives a command that would leave the registers `r.1` and push the words `r.2`, and is not ignored. -/
structure PushEnds (s : State) (r : Translated) (o : Host.Outcome State Fault Refusal) : Prop where
  fits : s.trFifo.size.val + r.2.length ≤ 4 →
    ∃ f, Pushes s.trFifo r.2 f ∧ o = .next ({ r.1 with trFifo := f }.reply .none)
  full : 4 < s.trFifo.size.val + r.2.length → o = .next (s.raiseFault .fifoOverflow)
  silent : r.2 = [] → o = .next (r.1.reply .none)

theorem runCommand_commit {s : State} (hs : s.fltCode = 0) {r : Translated} (hr : SameOutside s r.1) :
    PushEnds s r (runCommand s (commit s r)) where
  fits hfits := by
    obtain ⟨f, hpushes, hf⟩ := Fifo.pushes_of_fits hfits
    exact ⟨f, hpushes, by rw [commit, hf, runCommand_ok hs]⟩
  full hfull := by rw [commit, Fifo.enqueue_full hfull, runCommand_error hs]
  silent hout := by rw [commit, hout, Fifo.enqueue_nil, runCommand_ok hs, ← hr.trFifo]

/-- `bs.push` of a byte ends as R75 says of what that byte does. -/
theorem bsPush_ends {s : State} (hs : s.fltCode = 0) (b : Byte) :
    PushEnds s (translateByte params b s) (exec (.bsPush (pushOperand b)) s) := by
  rw [exec_bsPush_byte]
  exact runCommand_commit hs (translateByte_outside _ b s)

/-- So does the row that encodes to the byte. -/
theorem byteRow_ends {s : State} (hs : s.fltCode = 0) {i : Instr} {b : Byte} (h : encode i = .midi1Byte b) :
    PushEnds s (translateByte params b s) (exec i s) := by
  rw [exec_of_encode_byte h]
  exact runCommand_commit hs (translateByte_outside _ b s)

/-- The two instructions that carry the byte (R53). -/
theorem rowOrPush_ends {s : State} (hs : s.fltCode = 0) {row : Instr} {b : Byte} (h : encode row = .midi1Byte b) :
    ∀ i ∈ [row, .bsPush (pushOperand b)], PushEnds s (translateByte params b s) (exec i s) := by
  simp only [List.forall_mem_cons, List.not_mem_nil, false_imp_iff, implies_true, and_true]
  exact ⟨byteRow_ends hs h, bsPush_ends hs b⟩

section
variable {s t : State} {o : Host.Outcome State Fault Refusal}

/-- One word needs one free slot. -/
theorem PushEnds.oneWord {w : Word} (h : PushEnds s (t, [w]) o) :
    (s.trFifo.size.val ≤ 3 → ∃ f, Pushes s.trFifo [w] f ∧ o = .next ({ t with trFifo := f }.reply .none)) ∧
      (s.trFifo.size.val = 4 → o = .next (s.raiseFault .fifoOverflow)) :=
  ⟨fun hfree => h.fits (Nat.succ_le_succ hfree), fun hfull => h.full (Nat.lt_succ_of_le hfull.ge)⟩

/-- A sysex7 packet needs two. -/
theorem PushEnds.packet {group st : Nibble} {n : Nat} {buf : List Byte}
    (h : PushEnds s (t, sxPacket group st n buf) o) :
    (s.trFifo.size.val ≤ 2 →
        ∃ f, Pushes s.trFifo (sxPacket group st n buf) f ∧ o = .next ({ t with trFifo := f }.reply .none)) ∧
      (2 < s.trFifo.size.val → o = .next (s.raiseFault .fifoOverflow)) :=
  ⟨fun hfree => h.fits (Nat.add_le_add_right hfree 2), fun hfull => h.full (Nat.add_lt_add_right hfull 2)⟩

end

/-! ### What each byte does (R74) -/

/-- The bytes that R74 tells apart. -/
theorem byte_cases (b : Byte) :
    b < 0x80 ∨ 0xF8 ≤ b ∨ b = 0xF0 ∨ b = 0xF7 ∨ (0x80 ≤ b ∧ b < 0xF8 ∧ b ≠ 0xF0 ∧ b ≠ 0xF7) := by
  bv_omega

/-! The rows of the table of R70. -/

theorem need_eq_zero_iff : ∀ st : Byte, need st = .zero ↔ st = 0xF6 := by decide

theorem need_eq_one_iff :
    ∀ st : Byte, need st = .one ↔ (0xC0 ≤ st ∧ st ≤ 0xDF) ∨ st = 0xF1 ∨ st = 0xF3 := by decide

theorem need_eq_two_iff :
    ∀ st : Byte, need st = .two ↔ (0x80 ≤ st ∧ st ≤ 0xBF) ∨ (0xE0 ≤ st ∧ st ≤ 0xEF) ∨ st = 0xF2 := by decide

theorem need_of_dataless : ∀ st ∈ [(0xF4 : Byte), 0xF5, 0xF6, 0xF7], need st = .zero ∨ need st = .res := by decide

/-- The word of a system message without data (R71, R72). -/
theorem word1_of_system (p : Config.Params) (group : Nibble) {st : Byte} (h : 0xF0 ≤ st) :
    word1 p group st 0 0 = p.mtSystem ++ group ++ st ++ 0#8 ++ 0#8 := by
  rw [word1, messageType, if_neg (BitVec.not_lt.mpr h)]
  rfl

section
variable (p : Config.Params) {b st : Byte} {s : State}

theorem sysexEndOrStatus_of_active (h : s.trSxst ≠ .idle) : sysexEndOrStatus p s = sysexEnd p s := if_pos h

theorem sysexEndOrStatus_of_idle (h : s.trSxst = .idle) : sysexEndOrStatus p s = otherStatus p 0xF7 s :=
  if_neg (not_not_intro h)

theorem dataByte_of_active (h : s.trSxst ≠ .idle) : dataByte p b s = sysexData b s := if_pos h

theorem dataByte_of_idle (h : s.trSxst = .idle) : dataByte p b s = runningData p b s := if_neg (not_not_intro h)

theorem otherStatus_out_of_ne (h : b ≠ 0xF6) : (otherStatus p b s).2 = [] := if_neg (mt (need_eq_zero_iff b).mp h)

theorem otherStatus_out_length : (otherStatus p b s).2.length ≤ 1 := by
  simp only [otherStatus]
  split <;> simp

theorem runningData_of_none (h : s.trRs = none) : runningData p b s = (s, []) := by rw [runningData, h]

theorem runningData_of_some (h : s.trRs = some st) : runningData p b s = statusData p st b s := by rw [runningData, h]

theorem statusData_of_dataless (h : need st = .zero ∨ need st = .res) : statusData p st b s = (s, []) := by
  rcases h with h | h <;> rw [statusData, h]

theorem statusData_of_one (h : need st = .one) : statusData p st b s = (s, [word1 p s.cfgGroup st b 0]) := by
  rw [statusData, h]

theorem statusData_of_two_first (h : need st = .two) (hnd : s.trNd = 0) :
    statusData p st b s = ({ s with trD1 := b, trNd := 1 }, []) := by
  rw [statusData, h]
  exact if_pos hnd

theorem statusData_of_two_second (h : need st = .two) (hnd : s.trNd ≠ 0) :
    statusData p st b s = ({ s with trNd := 0 }, [word1 p s.cfgGroup st s.trD1 b]) := by
  rw [statusData, h]
  exact if_neg hnd

theorem runningData_out_length : (runningData p b s).2.length ≤ 1 := by
  cases hrs : s.trRs with
  | none => simp [runningData_of_none p hrs]
  | some st =>
    rw [runningData_of_some p hrs]
    cases hneed : need st with
    | zero | res => simp [statusData_of_dataless p, hneed]
    | one => simp [statusData_of_one p hneed]
    | two =>
      by_cases hnd : s.trNd = 0
      · simp [statusData_of_two_first p hneed hnd]
      · simp [statusData_of_two_second p hneed hnd]

/-- A data byte in a sysex message emits nothing, or at the sixth byte a packet (R84). -/
theorem sysexData_out (b : Byte) (s : State) :
    (sysexData b s).2 = [] ∨ ∃ st n buf, (sysexData b s).2 = sxPacket s.cfgGroup st n buf := by
  by_cases hlt : s.trSxcnt.val + 1 < 6
  · exact .inl (by rw [sysexData_of_lt hlt])
  · exact .inr ⟨_, _, _, by rw [sysexData_of_not_lt hlt]⟩

/-- A byte emits at most one word, or a sysex7 packet for a byte of the message that is active (R89). -/
theorem translateByte_out (b : Byte) (s : State) :
    (translateByte p b s).2.length ≤ 1 ∨
      (s.trSxst ≠ .idle ∧ (b = 0xF7 ∨ b < 0x80) ∧
        ∃ st n buf, (translateByte p b s).2 = sxPacket s.cfgGroup st n buf) := by
  rcases byte_cases b with hdata | hrealtime | rfl | rfl | ⟨hlow, hF8, hF0, hF7⟩
  · rw [translateByte_of_lt p hdata]
    by_cases hst : s.trSxst = .idle
    · exact .inl (by rw [dataByte_of_idle p hst]; exact runningData_out_length p)
    · rw [dataByte_of_active p hst]
      rcases sysexData_out b s with hnil | hpacket
      · exact .inl (by rw [hnil]; exact Nat.zero_le 1)
      · exact .inr ⟨hst, .inr hdata, hpacket⟩
  · exact .inl (by rw [translateByte_of_realtime p hrealtime]; exact Nat.le_refl 1)
  · exact .inl (Nat.zero_le 1)
  · rw [translateByte_sysexEnd]
    by_cases hst : s.trSxst = .idle
    · exact .inl (by rw [sysexEndOrStatus_of_idle p hst]; exact otherStatus_out_length p)
    · exact .inr ⟨hst, .inl rfl, by rw [sysexEndOrStatus_of_active p hst]; exact ⟨_, _, _, rfl⟩⟩
  · exact .inl (by rw [translateByte_of_status p hlow hF8 hF0 hF7]; exact otherStatus_out_length p)

theorem translateByte_out_length (b : Byte) (s : State) : (translateByte p b s).2.length ≤ 2 := by
  rcases translateByte_out p b s with hle | ⟨-, -, st, n, buf, e⟩
  · exact Nat.le_succ_of_le hle
  · rw [e]
    exact Nat.le_refl 2

end

/-! ### The branches of `bs.push` (R76 to R85) -/

/-- Settles O33: the byte emits nothing. -/
theorem sysexStartResult : Obligations.SysexStartResult := fun _ hs i hi =>
  (rowOrPush_ends hs (b := 0xF0) rfl i hi).silent rfl

/-- Settles O34: the byte ends the message with one packet. -/
theorem sysexEndResult : Obligations.SysexEndResult := by
  rintro s words hs hst rfl i hi
  have hends := rowOrPush_ends hs (b := 0xF7) rfl i hi
  rw [translateByte_sysexEnd, sysexEndOrStatus_of_active _ hst] at hends
  exact hends.packet

/-- Settles O35: each row's byte is a realtime status, which leaves the registers. -/
theorem realtimeResult : Obligations.RealtimeResult := by
  intro s hs row hrow
  obtain ⟨hrow, hF8⟩ : encode row.1 = .midi1Byte row.2 ∧ 0xF8 ≤ row.2 := by
    revert row
    decide
  have hends := byteRow_ends hs hrow
  rw [translateByte_of_realtime _ hF8, realtime, word1_of_system _ _ (by bv_omega)] at hends
  exact hends.oneWord

/-- The rows of a status byte that R80 keeps without a word, beside 0xF7, and their bytes (R53). -/
def statusRows (n : Nibble) : List (Instr × Byte) :=
  [ (.midi1NoteOff n, statusByteOf 0x8 n), (.midi1NoteOn n, statusByteOf 0x9 n),
    (.midi1PolyPressure n, statusByteOf 0xA n), (.midi1ControlChange n, statusByteOf 0xB n),
    (.midi1ProgramChange n, statusByteOf 0xC n), (.midi1ChannelPressure n, statusByteOf 0xD n),
    (.midi1PitchBend n, statusByteOf 0xE n), (.midi1SystemCommonF1, 0xF1), (.midi1SystemCommonF2, 0xF2),
    (.midi1SystemCommonF3, 0xF3), (.midi1ReservedF4, 0xF4), (.midi1ReservedF5, 0xF5) ]

theorem statusRows_byte (n : Nibble) :
    ∀ row ∈ statusRows n, encode row.1 = .midi1Byte row.2 ∧ 0x80 ≤ row.2 ∧ row.2 < 0xF6 ∧ row.2 ≠ 0xF0 := by
  revert n
  decide

/-- Settles O36: of the other statuses only tune-request emits a word. -/
theorem statusByteResult : Obligations.StatusByteResult := by
  refine fun s n hs => ⟨fun row hrow => ?_, fun hst => ?_⟩
  · obtain ⟨hrow, hlow, hF6, hF0⟩ := statusRows_byte n row hrow
    have hends := byteRow_ends hs hrow
    rw [translateByte_of_status _ hlow (by bv_omega) hF0 (by bv_omega)] at hends
    exact hends.silent (otherStatus_out_of_ne _ (by bv_omega))
  · have hends := byteRow_ends (i := .midi1SysexEnd) hs rfl
    rw [translateByte_sysexEnd, sysexEndOrStatus_of_idle _ hst] at hends
    exact hends.silent rfl

/-- Settles O37: tune-request is the status that emits its word. -/
theorem tuneRequestResult : Obligations.TuneRequestResult := fun _ hs =>
  (byteRow_ends (i := .midi1TuneRequest) hs rfl).oneWord

/-- The row of data bytes ends as R75 says of what a data byte does (R83). -/
theorem dataRow_ends {s : State} (hs : s.fltCode = 0) (d : BitVec 7) :
    PushEnds s (dataByte params (dataByteOf d) s) (exec (.midi1Data d) s) :=
  translateByte_of_lt params (dataByteOf_lt d) s ▸ byteRow_ends hs rfl

/-- Settles O38: the byte is held, or flushed as the sixth in one packet. -/
theorem sysexDataResult : Obligations.SysexDataResult := by
  intro s d hs hst
  have hends := dataRow_ends hs d
  rw [dataByte_of_active _ hst] at hends
  refine ⟨fun hlt => ?_, fun hfive => ?_, fun hfive => ?_⟩
  · rw [sysexData_of_lt hlt] at hends
    exact hends.silent rfl
  · rw [sysexData_of_not_lt (by omega)] at hends
    exact hends.packet.1
  · rw [sysexData_of_not_lt (by omega)] at hends
    exact hends.packet.2

/-- Settles O39, by the running status and its count. -/
theorem runningDataResult : Obligations.RunningDataResult := by
  intro s d hs hst
  have hends := dataRow_ends hs d
  rw [dataByte_of_idle _ hst] at hends
  refine ⟨fun hrs => ?_, fun st hrs => ?_⟩
  · rw [runningData_of_none _ hrs] at hends
    exact hends.silent rfl
  rw [runningData_of_some _ hrs] at hends
  refine ⟨fun hmem => ?_, fun hone => ?_, fun htwo => ?_⟩
  · rw [statusData_of_dataless _ (need_of_dataless st hmem)] at hends
    exact hends.silent rfl
  · rw [statusData_of_one _ ((need_eq_one_iff st).mpr hone)] at hends
    exact hends.oneWord
  · have hneed := (need_eq_two_iff st).mpr htwo
    by_cases hnd : s.trNd = 0
    · rw [statusData_of_two_first _ hneed hnd] at hends
      exact ⟨fun _ => hends.silent rfl, fun h1 => absurd (h1.symm.trans hnd) (by decide),
        fun h1 => absurd (h1.symm.trans hnd) (by decide)⟩
    · rw [statusData_of_two_second _ hneed hnd] at hends
      exact ⟨fun h0 => absurd h0 hnd, fun _ => hends.oneWord.1, fun _ => hends.oneWord.2⟩

/-- Settles O40: `bs.push` of a byte has the ends of R75. -/
theorem bsPushIsAllOrNothing : Obligations.BsPushIsAllOrNothing := by
  rintro s b r hs rfl
  have hends := bsPush_ends hs b
  exact ⟨translateByte_out_length params b s, hends.fits, hends.full, hends.silent⟩

/-- Settles O42: a packet is two words, every other output at most one, so beside two words they fit. -/
theorem drainedTranslatorNeverOverflows : Obligations.DrainedTranslatorNeverOverflows := by
  refine ⟨fun p b s => ⟨translateByte_out_length p b s, fun htwo => ?_⟩, fun s b hs hsize => ?_⟩
  · rcases translateByte_out p b s with hle | hpacket
    · omega
    · exact hpacket
  · have hlen := translateByte_out_length params b s
    obtain ⟨f, -, hexec⟩ := (bsPush_ends hs b).fits (by omega)
    exact ⟨_, hexec, (translateByte_outside params b s).fltCode.trans hs, rfl⟩

/-! ### The other commands (R86 to R88) -/

theorem exec_bsPop_empty {s : State} (hs : s.fltCode = 0) (hempty : s.trFifo.size.val = 0) :
    exec (.bsPop 0) s = .next (s.raiseFault .fifoUnderflow) := by
  rw [exec_bsPop, if_neg (not_not_intro rfl), popWord, Fifo.pop_empty hempty, runCommand_error hs]

theorem exec_bsPop_val {s : State} {w : Word} {f : Fifo Word Config.trCap} (hs : s.fltCode = 0)
    (hpop : s.trFifo.pop = .ok (w, f)) :
    exec (.bsPop 0) s = .next ({ s with trFifo := f }.reply (.val w)) := by
  rw [exec_bsPop, if_neg (not_not_intro rfl), popWord, hpop, runCommand_ok hs]

/-- Settles O44: the ends of the command, by the faulted state, the operand and the size of `TR_FIFO`. -/
theorem bsPopResult : Obligations.BsPopResult := by
  refine fun s arg => ⟨?_, fun hs => runCommand_faulted hs _, fun hs harg => ?_, ?_, ?_⟩
  · rintro rfl
    exact decode_commandWord_eq_ok_iff.mpr ⟨rfl, rfl⟩
  · rw [exec_bsPop, if_pos harg, runCommand_error hs]
  · rintro hs rfl hempty
    exact exec_bsPop_empty hs (congrArg Fin.val hempty)
  · rintro hs rfl hne
    obtain ⟨w, f, hpop, hcontents⟩ := Fifo.pop_ok (f := s.trFifo) (Fin.val_ne_of_ne hne)
    exact ⟨w, f, hpop, hcontents, exec_bsPop_val hs hpop⟩

theorem boolValue_trEmpty (s : State) : boolValue s.trEmpty = if s.trFifo.contents = [] then 1 else 0 :=
  if_congr s.trFifo.isEmpty_iff rfl rfl

/-- Settles O45: the ends of the command, by the faulted state and the operand. -/
theorem bsEmptyResult : Obligations.BsEmptyResult := by
  refine fun s arg => ⟨?_, fun hs => runCommand_faulted hs _, fun hs harg => ?_, fun hs harg => ?_⟩
  · rintro rfl
    exact decode_commandWord_eq_ok_iff.mpr ⟨rfl, rfl⟩
  · rw [exec_bsEmpty, if_pos harg, runCommand_error hs]
  · rw [exec_bsEmpty, if_neg (not_not_intro harg), runCommand_ok hs, boolValue_trEmpty]
    rfl

/-- Settles O46: the ends of the command, by the faulted state and the operand. -/
theorem bsResetResult : Obligations.BsResetResult := by
  refine fun s arg => ⟨?_, fun hs => runCommand_faulted hs _, fun hs harg => ?_, fun hs harg => ?_⟩
  · rintro rfl
    exact decode_commandWord_eq_ok_iff.mpr ⟨rfl, rfl⟩
  · rw [exec_bsReset, if_pos harg, runCommand_error hs]
  · rw [exec_bsReset, if_neg (not_not_intro harg), runCommand_ok hs]
    rfl

/-! ### What a byte stream depends on (R24, R74) -/

/-- `v` with the translator's registers of `s`: the fields that `bs.push` reads to find what a byte does (R20). -/
def State.withRegistersOf (v s : State) : State :=
  { v with
    cfgGroup := s.cfgGroup, trRs := s.trRs, trD1 := s.trD1, trNd := s.trNd, trSxst := s.trSxst, trSxcnt := s.trSxcnt,
    trSxbuf := s.trSxbuf }

@[simp] theorem State.withRegistersOf_trRs (v s : State) : (v.withRegistersOf s).trRs = s.trRs := rfl

section
variable (v : State) (p : Config.Params) (b : Byte)

theorem sysexData_reads_registers : ByteIgnores v.withRegistersOf (sysexData b) := by
  intro s
  by_cases h : s.trSxcnt.val + 1 < 6
  · rw [sysexData_of_lt h, sysexData_of_lt (s := v.withRegistersOf s) h]; rfl
  · rw [sysexData_of_not_lt h, sysexData_of_not_lt (s := v.withRegistersOf s) h]; rfl

theorem statusData_reads_registers (st : Byte) : ByteIgnores v.withRegistersOf (statusData p st b) := by
  unfold statusData
  cases need st with
  | two => exact semiconj_ite (fun _ => .rfl) (fun _ => rfl) (fun _ => rfl)
  | _ => exact fun _ => rfl

theorem runningData_reads_registers : ByteIgnores v.withRegistersOf (runningData p b) := by
  intro s
  cases hrs : s.trRs with
  | none => rw [runningData_of_none p hrs, runningData_of_none (s := v.withRegistersOf s) p hrs]; rfl
  | some st =>
    rw [runningData_of_some p hrs, runningData_of_some (s := v.withRegistersOf s) p hrs]
    exact statusData_reads_registers v p b st s

/-- What a byte does depends on the registers alone, and is written to them alone. -/
theorem translateByte_reads_registers : ByteIgnores v.withRegistersOf (translateByte p b) := by
  have hstatus : ByteIgnores v.withRegistersOf (otherStatus p b) := fun _ => rfl
  have hrealtime : ByteIgnores v.withRegistersOf (realtime p b) := fun _ => rfl
  have hend : ByteIgnores v.withRegistersOf (sysexEnd p) := fun _ => rfl
  have hstart : ByteIgnores v.withRegistersOf sysexStart := fun _ => rfl
  exact semiconj_ite (fun _ => .rfl)
    (semiconj_ite (fun _ => .rfl) hstart <| semiconj_ite (fun _ => .rfl) hend <|
      semiconj_ite (fun _ => .rfl) hrealtime hstatus)
    (semiconj_ite (fun _ => .rfl) (sysexData_reads_registers v b) (runningData_reads_registers v p b))

end

section
variable (p : Config.Params)

theorem emissions_withRegistersOf (v s : State) (bytes : List Byte) :
    emissions p (v.withRegistersOf s) bytes = emissions p s bytes := by
  induction bytes generalizing s with
  | nil => rfl
  | cons b bs ih =>
    simp only [emissions, translateByte_reads_registers v p b s]
    rw [← ih (translateByte p b s).1]
    rfl

theorem feed_withRegistersOf (v s : State) (bytes : List Byte) :
    feed p (v.withRegistersOf s) bytes = v.withRegistersOf (feed p s bytes) := by
  induction bytes generalizing s with
  | nil => rfl
  | cons b bs ih =>
    simp only [feed, translateByte_reads_registers v p b s]
    exact ih (translateByte p b s).1

theorem SameView.emissions {s t : State} (h : SameView s t) (bytes : List Byte) :
    emissions p s bytes = emissions p t bytes := by
  induction bytes generalizing s t with
  | nil => rfl
  | cons b bs ih =>
    have hbyte := h.translateByte p b
    simp only [Machine.emissions, hbyte.out, ih hbyte.registers]

end

/-- Settles O56: after the reset nothing is collected, so with one group, and the other's fields outside the registers,
the one state shows the host what the other shows. -/
theorem resetTranslatorForgetsThePast : Obligations.ResetTranslatorForgetsThePast := by
  intro p s t stream hgroup
  have hview : SameView (t.clearTranslator.withRegistersOf s.clearTranslator) t.clearTranslator :=
    ⟨hgroup, rfl, rfl, rfl, rfl, rfl, fun hne => absurd rfl hne, rfl, rfl, rfl, rfl, rfl, rfl⟩
  rw [← emissions_withRegistersOf p t.clearTranslator, hview.emissions]

/-! ### A host that drains after every byte (R89, R92, R110) -/

/-- `t` is without a fault, with `TR_FIFO` empty and the translator's registers of `s`. -/
structure TranslatorDrained (s t : State) : Prop where
  fltCode : t.fltCode = 0
  size : t.trFifo.size.val = 0
  registers : t.withRegistersOf s = t

theorem popWords_succ {s t : State} {w : Word} (n : Nat) (h : exec (.bsPop 0) s = .next t)
    (hresp : t.resp = some (.val w)) :
    popWords (n + 1) s = (popWords n t).map fun r => (w :: r.1, r.2) := by
  simp only [popWords, h, hresp]

/-- Popping until `TR_FIFO` is empty returns all it held, oldest first. -/
theorem popWords_contents {s : State} (hs : s.fltCode = 0) :
    ∃ t, popWords s.trFifo.size.val s = some (s.trFifo.contents, t) ∧ TranslatorDrained s t := by
  rw [← Fifo.contents_length]
  induction hwords : s.trFifo.contents generalizing s with
  | nil => exact ⟨s, rfl, hs, by rw [← Fifo.contents_length, hwords]; rfl, rfl⟩
  | cons w words ih =>
    have hne : s.trFifo.size.val ≠ 0 := by simp [← Fifo.contents_length, hwords]
    obtain ⟨w', f, hpop, hcontents⟩ := Fifo.pop_ok hne
    obtain ⟨rfl, rfl⟩ := List.cons.inj (hwords.symm.trans hcontents)
    obtain ⟨t, hread, ht⟩ := ih (s := { s with trFifo := f }.reply (.val w)) hs rfl
    refine ⟨t, ?_, ht.fltCode, ht.size, ht.registers⟩
    rw [List.length_cons, popWords_succ _ (exec_bsPop_val hs hpop) rfl, hread]
    rfl

/-- One byte and the pops after it return the byte's words, and leave its registers. -/
theorem pushDrained_cons {s : State} (hs : s.fltCode = 0) (hempty : s.trFifo.size.val = 0) (b : Byte) :
    ∃ t, TranslatorDrained (translateByte params b s).1 t ∧ ∀ bs, pushDrained (b :: bs) s =
      (pushDrained bs t).map fun r => ((translateByte params b s).2 ++ r.1, r.2) := by
  have hnil : s.trFifo.contents = [] := List.length_eq_zero_iff.mp (s.trFifo.contents_length.trans hempty)
  have hlen := translateByte_out_length params b s
  obtain ⟨f, ⟨-, hcontents⟩, hexec⟩ := (bsPush_ends hs b).fits (by omega)
  rw [hnil, List.nil_append] at hcontents
  obtain ⟨t, hread, ht⟩ := popWords_contents (s := { (translateByte params b s).1 with trFifo := f }.reply .none)
    ((translateByte_outside params b s).fltCode.trans hs)
  refine ⟨t, ⟨ht.fltCode, ht.size, ht.registers⟩, fun bs => ?_⟩
  simp only [pushDrained, hexec, hread]
  rw [← hcontents]
  rfl

/-- Settles O43, by induction on the bytes: each leaves the translator drained, with the registers from which the next
byte's words follow. -/
theorem drainedHostPopsTheEmissions : Obligations.DrainedHostPopsTheEmissions := by
  intro bytes
  induction bytes with
  | nil => exact fun s hs hempty => ⟨s, rfl, hs, hempty, rfl, rfl, rfl, rfl⟩
  | cons b bs ih =>
    intro s hs hempty
    obtain ⟨u, hu, hcons⟩ := pushDrained_cons hs hempty b
    obtain ⟨t, hrest, hflt, hsize, hregisters⟩ := ih u hu.fltCode hu.size
    rw [← hu.registers, feed_withRegistersOf] at hregisters
    refine ⟨t, ?_, hflt, hsize, hregisters⟩
    have hwords : emissions params u bs = emissions params (translateByte params b s).1 bs := by
      rw [← hu.registers, emissions_withRegistersOf]
    rw [hcons, hrest, hwords]
    rfl

/-! ### Realtime bytes in a stream (R79) -/

/-- Settles O54, by induction on the stream: a realtime byte leaves the state as it is. -/
theorem realtimeBytesAreTransparent : Obligations.RealtimeBytesAreTransparent := by
  intro p s stream
  induction stream generalizing s with
  | nil => exact ⟨rfl, rfl⟩
  | cons b bs ih =>
    by_cases hb : b < 0xF8
    · obtain ⟨hfeed, hemissions⟩ := ih (translateByte p b s).1
      simp only [List.filter_cons, emissions, feed, hb, decide_true, if_true]
      exact ⟨hfeed, congrArg _ hemissions⟩
    · simp only [List.filter_cons, emissions, feed, hb, decide_false, Bool.false_eq_true, if_false,
        translateByte_of_realtime p (BitVec.not_lt.mp hb)]
      exact ih s

section
variable (p : Config.Params)

/-- A realtime byte emits its message wherever in the stream it stands. -/
theorem emissions_of_realtime {s : State} {bytes : List Byte} :
    ∀ e ∈ emissions p s bytes, 0xF8 ≤ e.1 → e.2 = [word1 p s.cfgGroup e.1 0 0] := by
  induction bytes generalizing s with
  | nil => nofun
  | cons b bs ih =>
    simp only [emissions, List.forall_mem_cons]
    refine ⟨fun hb => by rw [translateByte_of_realtime p hb]; rfl, ?_⟩
    rw [← (translateByte_outside p b s).cfgGroup]
    exact ih

/-! ### Running status (R80, R85) -/

/-- No sysex message is active, `st` is the running status and no data byte is pending. -/
structure Running (st : Byte) (s : State) : Prop where
  idle : s.trSxst = .idle
  status : s.trRs = some st
  noPending : s.trNd = 0

theorem otherStatus_running (st : Byte) (s : State) : Running st (otherStatus p st s).1 := ⟨rfl, rfl, rfl⟩

theorem translateByte_of_running {st b : Byte} {s : State} (hst : s.trSxst = .idle) (hrs : s.trRs = some st)
    (hb : b < 0x80) : translateByte p b s = statusData p st b s := by
  rw [translateByte_of_lt p hb, dataByte_of_idle p hst, runningData_of_some p hrs]

/-- Under a status of count 2 each pair of data bytes emits one message (R85). -/
theorem Running.emissions_pairs {st : Byte} (hneed : need st = .two) {pairs : List (Byte × Byte)}
    (hdata : ∀ q ∈ pairs, q.1 < 0x80 ∧ q.2 < 0x80) {s : State} (h : Running st s) :
    (emissions p s (pairs.flatMap fun q => [q.1, q.2])).flatMap (·.2) =
      pairs.map fun q => word1 p s.cfgGroup st q.1 q.2 := by
  induction pairs generalizing s with
  | nil => rfl
  | cons q qs ih =>
    obtain ⟨⟨hfirst, hsecond⟩, hrest⟩ := List.forall_mem_cons.mp hdata
    have hone : translateByte p q.1 s = ({ s with trD1 := q.1, trNd := 1 }, []) :=
      (translateByte_of_running p h.idle h.status hfirst).trans (statusData_of_two_first p hneed h.noPending)
    have htwo : translateByte p q.2 { s with trD1 := q.1, trNd := 1 } =
        ({ s with trD1 := q.1, trNd := 0 }, [word1 p s.cfgGroup st q.1 q.2]) :=
      (translateByte_of_running (s := { s with trD1 := q.1, trNd := 1 }) p h.idle h.status hsecond).trans
        (statusData_of_two_second p hneed one_ne_zero)
    have hqs := ih hrest (s := { s with trD1 := q.1, trNd := 0 }) ⟨h.idle, h.status, rfl⟩
    simp only [List.flatMap_cons, List.cons_append, List.nil_append, emissions, hone, htwo, hqs, List.map_cons]

/-- Under a status of count 1 each data byte does. -/
theorem Running.emissions_singles {st : Byte} (hneed : need st = .one) {ds : List Byte} (hdata : ∀ d ∈ ds, d < 0x80)
    {s : State} (h : Running st s) :
    (emissions p s ds).flatMap (·.2) = ds.map fun d => word1 p s.cfgGroup st d 0 := by
  induction ds with
  | nil => rfl
  | cons d ds ih =>
    obtain ⟨hd, hrest⟩ := List.forall_mem_cons.mp hdata
    have hone : translateByte p d s = (s, [word1 p s.cfgGroup st d 0]) :=
      (translateByte_of_running p h.idle h.status hd).trans (statusData_of_one p hneed)
    simp only [emissions, hone, List.flatMap_cons, ih hrest, List.map_cons, List.cons_append, List.nil_append]

end

/-- Settles O55: the status becomes the running status, under which each message leaves it so. -/
theorem runningStatusRepeats : Obligations.RunningStatusRepeats := by
  intro p s st hlow hF7
  have hstatus (hcount : need st = .one ∨ need st = .two) (bytes : List Byte) :
      (emissions p s (st :: bytes)).flatMap (·.2) = (emissions p (otherStatus p st s).1 bytes).flatMap (·.2) := by
    have hF0 : st ≠ 0xF0 := by rintro rfl; revert hcount; decide
    have hF6 : st ≠ 0xF6 := by rintro rfl; revert hcount; decide
    simp only [emissions, translateByte_of_status p hlow (by bv_omega) hF0 (by bv_omega), otherStatus_out_of_ne p hF6,
      List.flatMap_cons, List.nil_append]
  refine ⟨fun pairs hneed hdata => ?_, fun ds hneed hdata => ?_⟩
  · rw [hstatus (.inr hneed)]
    exact (otherStatus_running p st s).emissions_pairs p hneed hdata
  · rw [hstatus (.inl hneed)]
    exact (otherStatus_running p st s).emissions_singles p hneed hdata

/-! ### The packets of a sysex message (R77, R84, R90) -/

section
variable (p : Config.Params)

/-- The packets still to come of an active message: from its START packet on if none is out yet, after it otherwise. -/
def packetsFrom (group : Nibble) (st : SxState) (bytes : List Byte) : List Word :=
  if st = .started then sysexPackets p group bytes else sysexRest group bytes

/-- Fewer than six bytes make the packet that ends the message. -/
theorem packetsFrom_of_lt {group : Nibble} {st : SxState} {bytes : List Byte} (h : bytes.length < 6) :
    packetsFrom p group st bytes = sxPacket group (endStatus p st) bytes.length bytes := by
  have hmatch : sysexPackets p group bytes = sxPacket group p.sysexSingleStatus bytes.length bytes ∧
      sysexRest group bytes = sxPacket group sxEnd bytes.length bytes := by
    match bytes, h with
    | [], _ | [_], _ | [_, _], _ | [_, _, _], _ | [_, _, _, _], _ | [_, _, _, _, _], _ =>
      exact ⟨by simp [sysexPackets], by simp [sysexRest]⟩
  unfold packetsFrom endStatus
  split
  · exact hmatch.1
  · exact hmatch.2

/-- Six bytes make a full packet, and the message continues. -/
theorem packetsFrom_append {group : Nibble} {st : SxState} {six : List Byte} (h : six.length = 6) (bytes : List Byte) :
    packetsFrom p group st (six ++ bytes) =
      sxPacket group (flushStatus st) 6 six ++ packetsFrom p group .continuing bytes := by
  match six, h with
  | [b0, b1, b2, b3, b4, b5], _ =>
    unfold packetsFrom flushStatus
    split
    · rfl
    · rfl

/-- The bytes held, oldest first (R20). -/
def State.held (s : State) : List Byte := s.trSxbuf.toList.take s.trSxcnt.val

/-- From an active message, data bytes and the end emit the packets of the bytes held and the bytes to come. -/
theorem emissions_of_active {s : State} (hst : s.trSxst ≠ .idle) {ds : List Byte} (hdata : ∀ d ∈ ds, d < 0x80) :
    (emissions p s (ds ++ [0xF7])).flatMap (·.2) = packetsFrom p s.cfgGroup s.trSxst (s.held ++ ds) := by
  induction ds generalizing s with
  | nil =>
    have hlen : s.held.length = s.trSxcnt.val := s.held_length
    rw [List.append_nil, packetsFrom_of_lt p (hlen.trans_lt s.trSxcnt.isLt), hlen, State.held, sxPacket_take]
    simp only [List.nil_append, emissions, translateByte_sysexEnd, sysexEndOrStatus_of_active p hst, sysexEnd,
      List.flatMap_cons, List.flatMap_nil, List.append_nil]
  | cons d ds ih =>
    obtain ⟨hd, hrest⟩ := List.forall_mem_cons.mp hdata
    have hbyte : translateByte p d s = sysexData d s := by rw [translateByte_of_lt p hd, dataByte_of_active p hst]
    have hheld : (s.trSxbuf.set s.trSxcnt.val d).toList.take (s.trSxcnt.val + 1) = s.held ++ [d] :=
      take_succ_set _ s.trSxcnt.isLt d
    rw [List.append_cons s.held, ← hheld]
    simp only [List.cons_append, emissions, List.flatMap_cons, hbyte]
    by_cases hlt : s.trSxcnt.val + 1 < 6
    · rw [sysexData_of_lt hlt]
      exact ih hst hrest
    · rw [sysexData_of_not_lt hlt, show s.trSxcnt.val + 1 = 6 by omega, packetsFrom_append p (by simp), sxPacket_take]
      exact congrArg _ (ih (by simp) hrest)

end

/-- Settles O53: the realtime bytes are transparent, and the other bytes are a message of data bytes alone. -/
theorem sysexMessageFraming : Obligations.SysexMessageFraming := by
  intro p s stream hstream
  refine ⟨?_, emissions_of_realtime p⟩
  have hfilter : stream.filter (· < 0xF8) = stream.filter (· < 0x80) :=
    List.filter_congr fun b hb => by
      rcases hstream b hb with hdata | hrealtime
      · simp only [hdata, decide_true, decide_eq_true_eq]; bv_omega
      · simp only [show ¬ b < 0xF8 by bv_omega, show ¬ b < 0x80 by bv_omega]
  have hdata : ∀ d ∈ stream.filter (· < 0x80), d < 0x80 := fun d hd => of_decide_eq_true (List.mem_filter.mp hd).2
  have hbytes : (0xF0 :: stream ++ [0xF7]).filter (· < 0xF8) = 0xF0 :: (stream.filter (· < 0x80) ++ [0xF7]) := by
    rw [List.filter_append, List.filter_cons, hfilter]
    rfl
  rw [(realtimeBytesAreTransparent p s _).2, hbytes]
  exact emissions_of_active p (s := (sysexStart s).1) (by simp [sysexStart]) hdata

end Sys2Proof.Machine

/-! SUPPORT. The obligations of 60_exceptions.md: waiting, fault entry, the faulted state, and the order of checks. -/

namespace Sys2Proof.Machine

/-! ### Every step answers a next state (R94, R95, R105) -/

/-- Settles O8: it is what `step` does with an empty port. -/
theorem stepWaitsUnchanged : Obligations.StepWaitsUnchanged := fun _ => step_idle

theorem performCommand_next (w : CommandWord) (s : State) : ∃ t, performCommand w s = .next t := by
  obtain ⟨body, hrun, -⟩ := performCommand_runCommand w s
  exact hrun ▸ runCommand_next s body

/-- Settles O9: the core waits, performs a command word, whose violations are responses, or is reset. -/
theorem stepAlwaysAnswersNext : Obligations.StepAlwaysAnswersNext := by
  intro s
  cases hport : s.port with
  | nil => exact ⟨s, step_idle hport⟩
  | cons e rest =>
    cases e with
    | command w => exact step_command hport ▸ performCommand_next w _
    | reset group cable => exact ⟨_, step_reset hport⟩

/-! ### Fault entry (R95) -/

/-- A command word that ends with a violation recorded over 0 has entered the fault, and done nothing else. -/
theorem performCommand_faults {w : CommandWord} {s t : State} (hs : s.fltCode = 0) (h : performCommand w s = .next t)
    (ht : t.fltCode ≠ 0) : ∃ c, c ≠ .configRange ∧ t = s.raiseFault c := by
  rcases performCommand_cases h with ⟨hfaulted, -⟩ | ⟨body, hbody, hok⟩ | ⟨-, hraised⟩
  · exact absurd hs hfaulted
  · have hkept : t.fltCode = s.fltCode := ((hbody.commandBody s).commits t hok).fltCode
    exact absurd (hkept.trans hs) ht
  · exact hraised

/-- Settles O11: of the three ends of a command word only fault entry writes `FLT_CODE`. -/
theorem faultEntryIsPrecise : Obligations.FaultEntryIsPrecise := by
  intro s t w rest hport hs hstep ht
  rw [step_command hport] at hstep
  obtain ⟨c, hc, hraised⟩ := performCommand_faults (s := { s with port := rest }) hs hstep ht
  exact ⟨c, hc, hraised, t.faultOut_iff.mpr ht⟩

/-! ### The faulted state (R96) -/

theorem exec_faulted {s : State} (h : s.fltCode ≠ 0) (i : Instr) : exec i s = .next s.faultedReply := by
  obtain ⟨body, hrun, -⟩ := exec_runCommand i s
  rw [hrun, runCommand_faulted h]

theorem performCommand_faulted {s : State} (h : s.fltCode ≠ 0) (w : CommandWord) :
    performCommand w s = .next s.faultedReply := by
  obtain ⟨body, hrun, -⟩ := performCommand_runCommand w s
  rw [hrun, runCommand_faulted h]

/-- Settles O12: every command is run by `runCommand`, which looks at `FLT_CODE` first; the reset does not. -/
theorem faultedStateIgnoresCommands : Obligations.FaultedStateIgnoresCommands := by
  intro s hs
  refine ⟨fun w rest hport => ?_, exec_faulted hs, fun group cable rest hport => ⟨_, step_reset hport, rfl⟩⟩
  rw [step_command hport]
  exact performCommand_faulted (s := { s with port := rest }) hs w

/-! ### The order of checks (R97) -/

/-- An instruction with a reserved bit set is rejected as an illegal command word is, whatever the state holds. -/
theorem exec_of_not_wellFormed {i : Instr} (h : ¬ i.WellFormed) (s : State) : exec i s = rejectIllegal s := by
  cases i with
  | le7Dec2 arg | usbAvail arg | usbRead arg | bsPush arg | bsPop arg | bsEmpty arg | bsReset arg =>
    exact congrArg (runCommand s) (if_pos (mt beq_iff_eq.mpr h))
  | _ => exact absurd rfl h

/-- Settles O16: the reserved bits are looked at before the command's body. -/
theorem reservedBitsFaultBeforePreconditions : Obligations.ReservedBitsFaultBeforePreconditions :=
  fun _ s hs hreserved => (exec_of_not_wellFormed hreserved s).trans (runCommand_error hs .illegalCommand)

end Sys2Proof.Machine

/-! SUPPORT. The obligations of 70_reset_and_hazards.md: what global reset writes, and what the host then sees. -/

namespace Sys2Proof.Machine

/-- Settles O1: `globalReset` writes every value that R106 lists, and with nothing more on the port the core waits. -/
theorem globalResetLeavesResetValues : Obligations.GlobalResetLeavesResetValues := by
  intro s group cable rest hport
  refine ⟨_, step_reset hport, rfl, rfl, rfl, rfl, rfl, rfl, rfl, rfl, rfl, rfl, rfl, rfl, fun hrest => ?_⟩
  exact step_idle ((State.globalReset_port _ group cable).trans hrest)

/-- The registers that global reset leaves as they are, the slots among them, are those that the host cannot see after
it: nothing is pending or held, and both FIFOs are empty (R24, R106). -/
theorem sameView_globalReset_resetWith (s : State) (group : Option Nibble) (cable : Nibble) :
    SameView (s.globalReset group cable) { State.resetWith group cable with port := s.port } where
  cfgGroup := rfl
  cfgCable := rfl
  fltCode := rfl
  uxBytes := s.uxFifo.contents_clear
  trRs := rfl
  trNd := rfl
  trD1 hpending := absurd rfl hpending
  trSxst := rfl
  trSxcnt := rfl
  held := rfl
  words := s.trFifo.contents_clear
  resp := rfl
  port := rfl

/-- Settles O2: the two states show the host the same. -/
theorem globalResetRestoresResetView : Obligations.GlobalResetRestoresResetView := fun s group cable =>
  (sameView_iff _ { State.resetWith group cable with port := s.port }).mpr
    (sameView_globalReset_resetWith s group cable)

end Sys2Proof.Machine
